-- ==== Sys2Proof/Word.lean ====
section
/-! DEFINITION. The word types of TGADEC (00_scope.md R12, R13). Every value of the spec is unsigned; bit 0 is
the least significant bit. -/

namespace Sys2Proof

/-- A byte: 8 bits (R12). -/
abbrev Byte := BitVec 8

/-- A 16-bit header field or dispatch key (R101, R108). -/
abbrev Half := BitVec 16

end Sys2Proof
end

