-- ==== Sys2Proof/Syntax.lean ====
section
/-! DEFINITION. The units TGADEC decodes (30_encoding.md R100, R112): the header record, the packet header
bytes, the dispatch keys, the payloads and the host commands, one constructor of `Instr` per row of
spec/opcode_table.json. -/

namespace Sys2Proof

/-- The twelve fields of the 18-byte header record, in wire order (R101). They are also the header registers
`HDR_*` (R33). -/
structure Header where
  idLength     : Byte
  colorMapType : Byte
  imageType    : Byte
  cMapStart    : Half
  cMapLength   : Half
  cMapDepth    : Byte
  xOffset      : Half
  yOffset      : Half
  width        : Half
  height       : Half
  pixelDepth   : Byte
  imageDesc    : Byte
  deriving DecidableEq, Repr

/-- The input stream `S` the host attaches with OPEN (R11): the bytes it delivers, and whether it signals end
of stream after them. `ended = false` is a port that stalls for ever after `bytes` (R77, R305). -/
structure Stream where
  bytes : List Byte
  ended : Bool
  deriving DecidableEq, Repr

/-- One transaction of the host command port: the HOSTCMD8 code, and OPEN's operand (R118, R241).
`stream = none` is the marker for "the resource cannot be acquired". -/
structure HostCmd where
  code   : Byte
  stream : Option Stream
  deriving DecidableEq, Repr

/-- What the sequencer is about to decode. Each slot names one format of R100; PX8 has two slots, because a PX8
byte is the operand of both UNPACK8 and CMAP_LOOKUP (R105, R112); the sequencer reads it once per pixel, as
UNPACK8's, which runs CMAP_LOOKUP within the same iteration (R156). -/
inductive Slot where
  | hostcmd8   -- HOSTCMD8: a host command
  | hdr18      -- HDR18: the header record
  | idField    -- ID: the image-ID field
  | cmape24    -- CMAPE24: a colormap entry
  | dkey16     -- DKEY16: the dispatch key
  | rlehdr8    -- RLEHDR8: a packet header byte
  | px8        -- PX8: an index payload
  | px24       -- PX24: a 24-bit payload
  | px32       -- PX32: a 32-bit payload
  | lookup     -- PX8: an index as the operand of CMAP_LOOKUP alone (R155)
  deriving DecidableEq, Repr

/-- An encoded unit: its slot, its bytes in stream order (for DKEY16: pixelDepth, which is bits 7..0, first),
and the operand that travels with a host command. -/
structure CodeWord where
  slot   : Slot
  bytes  : List Byte
  stream : Option Stream
  deriving DecidableEq, Repr

/-- Why the decoder rejects a unit. -/
inductive DecodeError where
  | reservedCommand (code : Byte)  -- a HOSTCMD8 code 0x09..0xFF (R118)
  | wrongLength (slot : Slot)      -- the bytes are not a unit of that slot's format (R100)
  | wrongOperand (slot : Slot)     -- a unit other than a host command with a stream operand
  deriving DecidableEq, Repr

/-- The encoded units and host commands, one constructor per row of the opcode map (R112). -/
inductive Instr where
  | rawPkt (n : BitVec 7)                 -- RAW_PKT: count field N
  | runPkt (n : BitVec 7)                 -- RUN_PKT: count field N
  | idxRaw8                               -- IDX_RAW8
  | tcRaw24                               -- TC_RAW24
  | tcRaw32                               -- TC_RAW32
  | idxRle8                               -- IDX_RLE8
  | tcRle24                               -- TC_RLE24
  | tcRle32                               -- TC_RLE32
  | unsupported (key : Half)              -- UNSUPPORTED: any other dispatch key
  | hdrCapture (h : Header)               -- HDR_CAPTURE
  | idConsume (bytes : List Byte)         -- ID_CONSUME
  | cmapFill (b g r : Byte)               -- CMAP_FILL
  | cmapLookup (idx : Byte)               -- CMAP_LOOKUP
  | unpack8 (idx : Byte)                  -- UNPACK8
  | unpack24 (b g r : Byte)               -- UNPACK24
  | unpack32 (b g r a : Byte)             -- UNPACK32
  | cmdReset                              -- CMD_RESET
  | cmdOpen (stream : Option Stream)      -- CMD_OPEN: S, or none when it cannot be acquired
  | cmdLoad                               -- CMD_LOAD
  | cmdReadHeader                         -- CMD_READ_HEADER
  | cmdReadCmap                           -- CMD_READ_CMAP
  | cmdReadIdx                            -- CMD_READ_IDX
  | cmdReadRgb24                          -- CMD_READ_RGB24
  | cmdReadArgb32                         -- CMD_READ_ARGB32
  | cmdReadStatus                         -- CMD_READ_STATUS
  deriving DecidableEq, Repr

end Sys2Proof
end

