-- ==== Sys2Proof/WellFormed.lean ====
section
/-! DEFINITION. Which terms of `Instr` stand for a unit of the opcode map (30_encoding.md R102, R112, R114). -/

namespace Sys2Proof

/-- The six supported dispatch keys (R112, R191). -/
def supportedKeys : List Half := [0x0108, 0x0218, 0x0220, 0x0908, 0x0918, 0x0920]

/-- An instruction is well formed when it stands for an encoded unit: an UNSUPPORTED key is none of the six
supported ones (R112: lowest priority), and an image-ID field holds 0..255 bytes (R102). Every other operand
is legal at every value (R113, R115, R210 to R212). -/
def Instr.wellFormed : Instr → Bool
  | .rawPkt _ => true
  | .runPkt _ => true
  | .idxRaw8 => true
  | .tcRaw24 => true
  | .tcRaw32 => true
  | .idxRle8 => true
  | .tcRle24 => true
  | .tcRle32 => true
  | .unsupported key => !supportedKeys.contains key
  | .hdrCapture _ => true
  | .idConsume bytes => bytes.length ≤ 255
  | .cmapFill _ _ _ => true
  | .cmapLookup _ => true
  | .unpack8 _ => true
  | .unpack24 _ _ _ => true
  | .unpack32 _ _ _ _ => true
  | .cmdReset => true
  | .cmdOpen _ => true
  | .cmdLoad => true
  | .cmdReadHeader => true
  | .cmdReadCmap => true
  | .cmdReadIdx => true
  | .cmdReadRgb24 => true
  | .cmdReadArgb32 => true
  | .cmdReadStatus => true

end Sys2Proof
end

