-- ==== Sys2Proof/Decode.lean ====
section
/-! DEFINITION. The decoder: total on every code word, rejecting by name; the encoder, written from the same
tables of 30_encoding.md (R101 to R112, R118); and the host's view of the opcode table. -/

namespace Sys2Proof

/-- `le16(b0, b1)`: the byte at the lower offset is bits 7..0 (R13, R72). -/
def le16 (b0 b1 : Byte) : Half := b1 ++ b0

/-- Bits 7..0 of a 16-bit value, its byte at the lower offset. -/
def loByte (v : Half) : Byte := v.extractLsb' 0 8

/-- Bits 15..8 of a 16-bit value, its byte at the higher offset. -/
def hiByte (v : Half) : Byte := v.extractLsb' 8 8

/-- RLEHDR8 (R104): bit 7 is the encoded flag E, bits 6..0 the count field N. -/
def decodeRleHdr (b : Byte) : Instr :=
  if b.getLsbD 7 then .runPkt (b.extractLsb' 0 7) else .rawPkt (b.extractLsb' 0 7)

/-- DKEY16 (R108, R112): the six exact keys, and UNSUPPORTED for every other. -/
def decodeKey (k : Half) : Instr :=
  if k = 0x0108 then .idxRaw8
  else if k = 0x0218 then .tcRaw24
  else if k = 0x0220 then .tcRaw32
  else if k = 0x0908 then .idxRle8
  else if k = 0x0918 then .tcRle24
  else if k = 0x0920 then .tcRle32
  else .unsupported k

/-- HOSTCMD8 (R118): codes 0x00 to 0x08; the rest are reserved. Only OPEN takes the operand. -/
def decodeCmd (code : Byte) (operand : Option Stream) : Except DecodeError Instr :=
  if code = 0x00 then .ok .cmdReset
  else if code = 0x01 then .ok (.cmdOpen operand)
  else if code = 0x02 then .ok .cmdLoad
  else if code = 0x03 then .ok .cmdReadHeader
  else if code = 0x04 then .ok .cmdReadCmap
  else if code = 0x05 then .ok .cmdReadIdx
  else if code = 0x06 then .ok .cmdReadRgb24
  else if code = 0x07 then .ok .cmdReadArgb32
  else if code = 0x08 then .ok .cmdReadStatus
  else .error (.reservedCommand code)

/-- HDR18 (R101): eighteen bytes at their offsets, the two-byte fields little-endian (R72, R111). -/
def decodeHeader : List Byte → Option Header
  | [h0, h1, h2, h3, h4, h5, h6, h7, h8, h9, h10, h11, h12, h13, h14, h15, h16, h17] =>
    some
      { idLength := h0, colorMapType := h1, imageType := h2, cMapStart := le16 h3 h4,
        cMapLength := le16 h5 h6, cMapDepth := h7, xOffset := le16 h8 h9, yOffset := le16 h10 h11,
        width := le16 h12 h13, height := le16 h14 h15, pixelDepth := h16, imageDesc := h17 }
  | _ => none

/-- The unit in a slot other than HOSTCMD8, from its bytes (R100 to R108). -/
def decodeBytes (slot : Slot) (bytes : List Byte) : Except DecodeError Instr :=
  match slot, bytes with
  | .rlehdr8, [b] => .ok (decodeRleHdr b)
  | .dkey16, [depth, type] => .ok (decodeKey (le16 depth type))
  | .hdr18, bs =>
    match decodeHeader bs with
    | some h => .ok (.hdrCapture h)
    | none => .error (.wrongLength .hdr18)
  | .idField, bs => if bs.length ≤ 255 then .ok (.idConsume bs) else .error (.wrongLength .idField)
  | .cmape24, [b, g, r] => .ok (.cmapFill b g r)
  | .lookup, [i] => .ok (.cmapLookup i)
  | .px8, [i] => .ok (.unpack8 i)
  | .px24, [b, g, r] => .ok (.unpack24 b g r)
  | .px32, [b, g, r, a] => .ok (.unpack32 b g r a)
  | sl, _ => .error (.wrongLength sl)

/-- The decoder: the instruction a code word stands for, or why there is none (R112). The operand of a host
command other than OPEN is ignored (log entry 15). -/
def decode (w : CodeWord) : Except DecodeError Instr :=
  match w.slot with
  | .hostcmd8 =>
    match w.bytes with
    | [code] => decodeCmd code w.stream
    | _ => .error (.wrongLength .hostcmd8)
  | sl => if w.stream.isNone then decodeBytes sl w.bytes else .error (.wrongOperand sl)

/-- The 18 bytes of a header record (R101). -/
def encodeHeader (h : Header) : List Byte :=
  [h.idLength, h.colorMapType, h.imageType, loByte h.cMapStart, hiByte h.cMapStart,
    loByte h.cMapLength, hiByte h.cMapLength, h.cMapDepth, loByte h.xOffset, hiByte h.xOffset,
    loByte h.yOffset, hiByte h.yOffset, loByte h.width, hiByte h.width, loByte h.height,
    hiByte h.height, h.pixelDepth, h.imageDesc]

/-- A code word of a slot that takes no operand. -/
def plainWord (slot : Slot) (bytes : List Byte) : CodeWord := ⟨slot, bytes, none⟩

/-- The encoder: the code word of each instruction, from the tables of R101 to R108 and R118. -/
def encode : Instr → CodeWord
  | .rawPkt n => plainWord .rlehdr8 [0#1 ++ n]
  | .runPkt n => plainWord .rlehdr8 [1#1 ++ n]
  | .idxRaw8 => plainWord .dkey16 [0x08, 0x01]
  | .tcRaw24 => plainWord .dkey16 [0x18, 0x02]
  | .tcRaw32 => plainWord .dkey16 [0x20, 0x02]
  | .idxRle8 => plainWord .dkey16 [0x08, 0x09]
  | .tcRle24 => plainWord .dkey16 [0x18, 0x09]
  | .tcRle32 => plainWord .dkey16 [0x20, 0x09]
  | .unsupported key => plainWord .dkey16 [loByte key, hiByte key]
  | .hdrCapture h => plainWord .hdr18 (encodeHeader h)
  | .idConsume bytes => plainWord .idField bytes
  | .cmapFill b g r => plainWord .cmape24 [b, g, r]
  | .cmapLookup i => plainWord .lookup [i]
  | .unpack8 i => plainWord .px8 [i]
  | .unpack24 b g r => plainWord .px24 [b, g, r]
  | .unpack32 b g r a => plainWord .px32 [b, g, r, a]
  | .cmdReset => plainWord .hostcmd8 [0x00]
  | .cmdOpen stream => ⟨.hostcmd8, [0x01], stream⟩
  | .cmdLoad => plainWord .hostcmd8 [0x02]
  | .cmdReadHeader => plainWord .hostcmd8 [0x03]
  | .cmdReadCmap => plainWord .hostcmd8 [0x04]
  | .cmdReadIdx => plainWord .hostcmd8 [0x05]
  | .cmdReadRgb24 => plainWord .hostcmd8 [0x06]
  | .cmdReadArgb32 => plainWord .hostcmd8 [0x07]
  | .cmdReadStatus => plainWord .hostcmd8 [0x08]

/-- The operand a table word gives OPEN: an operand of zeros, the stream of length 0 (log entry 9). -/
def emptyStream : Stream := ⟨[], true⟩

/-- The slot of a table word of `nbits` bits (log entry 8): an 8-bit word is a HOSTCMD8 code when it is one of
the nine assigned codes and an RLEHDR8 byte otherwise, 16 bits are a DKEY16 key, 24 bits a CMAPE24 entry, 32
bits a PX32 payload and 144 bits a header record. -/
def tableSlot (nbits w : Nat) : Option Slot :=
  if nbits = 8 then some (if w % 256 < 9 then .hostcmd8 else .rlehdr8)
  else if nbits = 16 then some .dkey16
  else if nbits = 24 then some .cmape24
  else if nbits = 32 then some .px32
  else if nbits = 144 then some .hdr18
  else none

/-- The first `n` bytes of a table word, byte 0 being bits 7..0. -/
def tableBytes : Nat → Nat → List Byte
  | 0, _ => []
  | n + 1, w => BitVec.ofNat 8 w :: tableBytes n (w / 256)

/-- The code word of a table word in a slot. -/
def tableWord (slot : Slot) (nbits w : Nat) : CodeWord :=
  ⟨slot, tableBytes (nbits / 8) w, if slot = .hostcmd8 then some emptyStream else none⟩

/-- The instruction the decoder reads from a table word. -/
def decodeTableWord (nbits w : Nat) : Option Instr :=
  match tableSlot nbits w with
  | none => none
  | some slot =>
    match decode (tableWord slot nbits w) with
    | .ok i => some i
    | .error _ => none

end Sys2Proof
end

