-- ==== Sys2Proof/Config.lean ====
section
/-! DEFINITION. The parameters of TGADEC (00_scope.md R8 to R10) and the free values: the contents of the
memories that the spec leaves unspecified (10_state.md R47, R50; log entry 5). -/

namespace Sys2Proof

/-- HDR_BYTES: the length of the header record (R8). -/
def Config.hdrBytes : Nat := 18

/-- CMAP_ENTRY_BYTES: the length of a colormap entry (R8). -/
def Config.cmapEntryBytes : Nat := 3

/-- CMAP_ENTRIES_MAX: the number of colormap entries (R8). -/
def Config.cmapEntriesMax : Nat := 256

/-- ID_BYTES_MAX: the longest image-ID field (R9). -/
def Config.idBytesMax : Nat := 255

/-- SYNTH_ALPHA: the alpha of a pixel without one (R8, R222). -/
def Config.synthAlpha : Byte := 255

/-- The default of the parameter MAX_PIXEL_COUNT, 65535*65535 (R10, D8). -/
def Config.maxPixelCountDefault : Nat := 0xFFFE0001

/-- FREE VALUE. What byte `addr` of output buffer number `buffer` holds after the `epoch`-th reset while
nothing has written it: unspecified (R50, R290). -/
opaque Config.unwrittenByte (epoch buffer addr : Nat) : Byte

/-- FREE VALUE. What colormap entry `k` holds after the `epoch`-th reset while nothing has written it:
unspecified (R47, R290). -/
opaque Config.unwrittenEntry (epoch k : Nat) : BitVec 24

end Sys2Proof
end

