-- ==== Sys2Proof/Machine/State.lean ====
section
/-! DEFINITION. The state of TGADEC as plain data (10_state.md R30 to R53), its host command port (R52), its
reset (R53, R290), and the reasons a step can stop. -/

namespace Sys2Proof.Machine

/-- The sequencer phase PHASE (R32); the codes are in `Phase.code`. -/
inductive Phase where
  | unopened | opened | loadHdr | loadId | loadCmap | loadDispatch | loadPixel | decoded | closed
  deriving DecidableEq, Repr

/-- The decode engine STRATEGY (R37); the codes are in `Strategy.code`. -/
inductive Strategy where
  | none | idxRaw8 | tcRaw24 | tcRaw32 | idxRle8 | tcRle24 | tcRle32
  deriving DecidableEq, Repr

/-- The error codes ERR (60_exceptions.md R260); the numbers are in `Err.code`. -/
inductive Err where
  | none | ioError | unsupportedFormat | truncatedData | indexOutOfRange | cmapSize | capacity
  deriving DecidableEq, Repr

/-- The derived size registers (R35). -/
structure Sizes where
  pixelCount : BitVec 32
  size8      : BitVec 32
  size24     : BitVec 34
  size32     : BitVec 34
  deriving DecidableEq, Repr

/-- The RLE packet registers PKT_ENC, PKT_LEN, PKT_REMAIN and PKT_PAYLOAD (R41). -/
structure Packet where
  enc     : Bool
  len     : BitVec 8
  remain  : BitVec 8
  payload : BitVec 32
  deriving DecidableEq, Repr

/-- The status flags RESULT_VALID, IDX_PRESENT and PKT_OVERRUN (R42). -/
structure StatusFlags where
  resultValid : Bool
  idxPresent  : Bool
  pktOverrun  : Bool
  deriving DecidableEq, Repr

/-- The error record ERR, ERR_PHASE and ERR_PIX (R44). -/
structure ErrorRecord where
  code  : Err
  phase : Phase
  pix   : BitVec 32
  deriving DecidableEq, Repr

/-- A memory of `w`-bit units: the units written so far, by address, addresses strictly rising. An address
that is not listed holds no written value (log entry 5), so no entry equals what an unlisted one reads as.
A memory of bytes is a list of `Host.Cell`. -/
abbrev Memory (w : Nat) := List (Nat × BitVec w)

/-- The three output buffers OUT_IDX, OUT_RGB and OUT_ARGB (R50). -/
structure Buffers where
  idx  : Memory 8
  rgb  : Memory 8
  argb : Memory 8
  deriving DecidableEq, Repr

/-- The outcome of a host command (R15). -/
inductive CmdOutcome where
  | ok
  | refused
  | fail (code : Err)
  deriving DecidableEq, Repr

/-- What READ_STATUS returns, as the register codes (R248). -/
structure Status where
  phase       : BitVec 4
  strategy    : BitVec 3
  cmapCount   : BitVec 9
  pix         : BitVec 32
  pktEnc      : Bool
  pktLen      : BitVec 8
  pktRemain   : BitVec 8
  pktPayload  : BitVec 32
  inPos       : BitVec 64
  resultValid : Bool
  idxPresent  : Bool
  pktOverrun  : Bool
  err         : BitVec 4
  errPhase    : BitVec 4
  errPix      : BitVec 32
  refused     : Bool
  deriving DecidableEq, Repr

/-- The data a host command returns (R245 to R248). -/
inductive Data where
  | none
  | header (fields : Header) (sizes : Sizes) (id : List Byte)
  | colors (entries : List (Byte × Byte × Byte))   -- (blue, green, red) triples
  | bytes (contents : List Byte)
  | status (registers : Status)
  deriving DecidableEq, Repr

/-- What the command port returns for one command: its outcome and its data (R52, R239). -/
structure Response where
  outcome : CmdOutcome
  data    : Data
  deriving DecidableEq, Repr

/-- The state record of TGADEC: the components (a) to (m) that R30 lists, and nothing else. -/
structure BlockState where
  phase     : Phase
  hdr       : Header
  sizes     : Sizes
  cmapCount : BitVec 9
  cmap      : Memory 24
  idBuf     : List Byte
  strategy  : Strategy
  pix       : BitVec 32
  pkt       : Packet
  inPos     : BitVec 64
  flags     : StatusFlags
  error     : ErrorRecord
  refused   : Bool
  out       : Buffers
  deriving DecidableEq, Repr

/-- The state of the model: the block's record, which is all that the block itself carries from one step to the next
(R30), and around it what stands at its interfaces: the stream S at the stream port (R11, R52), the parameter
MAX_PIXEL_COUNT (R10, log entry 4), the host command port (`cmds`, `resp`: R52, log entry 2), and the counter of
the free values, which is no state of the machine (`epoch`, log entry 5). -/
structure State extends BlockState where
  stream        : Option Stream
  maxPixelCount : Nat
  cmds          : List HostCmd
  resp          : Option Response
  epoch         : Nat
  deriving DecidableEq, Repr

/-- The header registers after reset (R33). -/
def zeroHeader : Header :=
  { idLength := 0, colorMapType := 0, imageType := 0, cMapStart := 0, cMapLength := 0, cMapDepth := 0,
    xOffset := 0, yOffset := 0, width := 0, height := 0, pixelDepth := 0, imageDesc := 0 }

/-- The packet registers after reset and on entry to LOAD_PIXEL (R41). -/
def zeroPacket : Packet := { enc := false, len := 0, remain := 0, payload := 0 }

/-- The machine right after reset (R53, R290, R291): every register at its reset value, no stream, nothing
written in any memory, MAX_PIXEL_COUNT at its default, no command pending. -/
def State.reset : State :=
  { phase := .unopened
    hdr := zeroHeader
    sizes := { pixelCount := 0, size8 := 0, size24 := 0, size32 := 0 }
    cmapCount := 0
    cmap := []
    idBuf := []
    strategy := .none
    pix := 0
    pkt := zeroPacket
    inPos := 0
    flags := { resultValid := false, idxPresent := false, pktOverrun := false }
    error := { code := .none, phase := .unopened, pix := 0 }
    refused := false
    out := { idx := [], rgb := [], argb := [] }
    stream := none
    maxPixelCount := Config.maxPixelCountDefault
    cmds := []
    resp := none
    epoch := 0 }

/-- Why a step stops. -/
inductive Fault where
  /-- StreamRead asks for bytes the stream neither delivers nor ends before: the stuck state of R77 and R305
  (U6). Raised by `streamRead`. Safe: the hardware waits. -/
  | streamStall
  /-- StreamRead with no stream attached. Raised by `streamRead`; `Inv` shows that no run reaches it. Safe. -/
  | noStream
  /-- A payload is wanted while STRATEGY is NONE, which R201 excludes. Raised by `fetchPixel` and
  `execRunPkt`; `Inv` shows that no run reaches it. Safe. -/
  | noStrategy
  /-- A fetched unit that is not of its slot's format. Raised by `reject`; no fetch yields one. Safe. -/
  | malformedUnit
  deriving DecidableEq, Repr

/-- Why an instruction has no meaning in the model. -/
inductive Refusal where
  /-- The instruction has no meaning yet. Raised by `exec` alone, in a refused arm. Safe. -/
  | notModelled (mnemonic : String)
  deriving DecidableEq, Repr

end Sys2Proof.Machine
end

