-- ==== Sys2Proof/Machine/Operands.lean ====
section
/-! DEFINITION. The operand forms of the spec: register codes (10_state.md R32, R37; 60_exceptions.md R260), the
columns of the strategy table (R37), run lengths (R109), payload values (R110), channels, sizes (R133) and
output addresses (R81). -/

namespace Sys2Proof.Machine

/-- The code of PHASE (R32). -/
def Phase.code : Phase → BitVec 4
  | .unopened => 0
  | .opened => 1
  | .loadHdr => 2
  | .loadId => 3
  | .loadCmap => 4
  | .loadDispatch => 5
  | .loadPixel => 6
  | .decoded => 7
  | .closed => 8

/-- The code of STRATEGY (R37). -/
def Strategy.code : Strategy → BitVec 3
  | .none => 0
  | .idxRaw8 => 1
  | .tcRaw24 => 2
  | .tcRaw32 => 3
  | .idxRle8 => 4
  | .tcRle24 => 5
  | .tcRle32 => 6

/-- The code of ERR (R260). -/
def Err.code : Err → BitVec 4
  | .none => 0
  | .ioError => 1
  | .unsupportedFormat => 2
  | .truncatedData => 3
  | .indexOutOfRange => 4
  | .cmapSize => 5
  | .capacity => 6

/-- The phases in which the command port takes a command (R239). -/
def Phase.takesCommands : Phase → Bool
  | .unopened | .opened | .decoded | .closed => true
  | .loadHdr | .loadId | .loadCmap | .loadDispatch | .loadPixel => false

/-- The payload slot and the payload size P of a strategy (R37, R105 to R107); NONE has neither. -/
def Strategy.payload : Strategy → Option (Slot × Nat)
  | .none => Option.none
  | .idxRaw8 | .idxRle8 => some (.px8, 1)
  | .tcRaw24 | .tcRle24 => some (.px24, 3)
  | .tcRaw32 | .tcRle32 => some (.px32, 4)

/-- IS_RLE (R37). -/
def Strategy.isRle : Strategy → Bool
  | .none | .idxRaw8 | .tcRaw24 | .tcRaw32 => false
  | .idxRle8 | .tcRle24 | .tcRle32 => true

/-- IS_INDEXED (R37). -/
def Strategy.isIndexed : Strategy → Bool
  | .idxRaw8 | .idxRle8 => true
  | .none | .tcRaw24 | .tcRaw32 | .tcRle24 | .tcRle32 => false

/-- `runLength = zext_8(N) + 1`, 1..128, the same formula for both packet kinds (R109, R171). -/
def runLength (n : BitVec 7) : BitVec 8 := n.setWidth 8 + 1

/-- `zext_32(le(p))`: a payload's bytes packed little-endian, the bytes beyond it 0 (R13, R41, R110). -/
def lePack : List Byte → BitVec 32
  | [] => 0
  | b :: bs => b.setWidth 32 ||| (lePack bs <<< 8)

/-- The low `n` bytes of a payload value in stream order: `PKT_PAYLOAD[8*n-1:0]` unpacked (R110, R175). -/
def leBytes : Nat → BitVec 32 → List Byte
  | 0, _ => []
  | n + 1, v => v.setWidth 8 :: leBytes n (v >>> 8)

/-- The colormap entry value of a triple: [7:0] blue, [15:8] green, [23:16] red (R46, R103). -/
def packEntry (b g r : Byte) : BitVec 24 := r ++ g ++ b

/-- The blue channel of an entry (R110). -/
def entryBlue (e : BitVec 24) : Byte := e.extractLsb' 0 8

/-- The green channel of an entry (R110). -/
def entryGreen (e : BitVec 24) : Byte := e.extractLsb' 8 8

/-- The red channel of an entry (R110). -/
def entryRed (e : BitVec 24) : Byte := e.extractLsb' 16 8

/-- SIZES (R133): the derived size registers of a header. -/
def sizesOf (h : Header) : Sizes :=
  let n : BitVec 32 := h.width.setWidth 32 * h.height.setWidth 32
  { pixelCount := n, size8 := n, size24 := n.setWidth 34 * 3, size32 := n.setWidth 34 * 4 }

/-- The number of colormap entries the stream holds: cMapLength entries if colorMapType is not 0, else none
(R150, C1). -/
def cmapEntries (h : Header) : BitVec 16 := if h.colorMapType = 0 then 0 else h.cMapLength

/-- The colormap entry whose three bytes start at stream position `pos`: entry k starts at 18 + HDR_ID_LENGTH + 3*k
(R102, R103, R117). IN_POS, with PHASE, is the sequencer's place (R39), so the loop variable k of R150 needs no
register of its own (R30; log entry 10). -/
def cmapEntryAt (pos : BitVec 64) (h : Header) : Nat := (pos - BitVec.ofNat 64 (18 + h.idLength.toNat)).toNat / 3

/-- The bytes of the dispatch key in code-word order: pixelDepth is bits 7..0, imageType bits 15..8 (R108). -/
def keyBytes (h : Header) : List Byte := [h.pixelDepth, h.imageType]

/-- The output buffers (R50). -/
inductive Space where
  | idx | rgb | argb
  deriving DecidableEq, Repr

/-- The number of a buffer, for the free value of its unwritten bytes (log entry 5). -/
def Space.number : Space → Nat
  | .idx => 0
  | .rgb => 1
  | .argb => 2

/-- The bytes a pixel occupies in a buffer, which is also its stride (R81). -/
def Space.stride : Space → Nat
  | .idx => 1
  | .rgb => 3
  | .argb => 4

/-- The address of the first byte of pixel `i`: i, 3*i or 4*i (R81). -/
def pixelAddr (sp : Space) (i : BitVec 32) : Nat := sp.stride * i.toNat

end Sys2Proof.Machine
end

