-- ==== Sys2Proof/Machine/Flags.lean ====
section
/-! DEFINITION. The status flags RESULT_VALID, IDX_PRESENT and PKT_OVERRUN (10_state.md R42) and the sticky mark
REFUSED (R45): every computation that writes one. Reset, which clears them all, is `State.reset`. -/

namespace Sys2Proof.Machine

/-- RESULT_VALID: 1 on entry to DECODED (R197), 0 on the failure path (R266). -/
def setResultValid (v : Bool) (s : State) : State := { s with flags := { s.flags with resultValid := v } }

/-- IDX_PRESENT: IS_INDEXED of the strategy just selected (R190). -/
def setIdxPresent (st : Strategy) (s : State) : State :=
  { s with flags := { s.flags with idxPresent := st.isIndexed } }

/-- PKT_OVERRUN: set at the end of the pixel loop when PKT_REMAIN > 0, else unchanged (R177, R194). -/
def noteOverrun (s : State) : State :=
  { s with flags := { s.flags with pktOverrun := s.flags.pktOverrun || decide (0 < s.pkt.remain.toNat) } }

/-- REFUSED: set by a refused command, cleared only by reset (R45). -/
def markRefused (s : State) : State := { s with refused := true }

end Sys2Proof.Machine
end

