-- ==== Sys2Proof/Machine/Ops.lean ====
section
/-! DEFINITION. The named operations: memories (10_state.md R48, 20_memory.md R80), the stream read primitive (R75),
the outcomes at the command port (R15), THE FAILURE PATH (60_exceptions.md R266), which is TGADEC's taking of an
exception, and the way out of it (R269: RESET, in Commands.lean), emitting a pixel (R219 to R221), and the tail
of the pixel loop (R194, R197). -/

namespace Sys2Proof.Machine

/-! ### Memories -/

/-- The unit at an address, if one was written. -/
def Memory.read {w : Nat} : Memory w → Nat → Option (BitVec w)
  | [], _ => none
  | (b, u) :: m, a => if a = b then some u else Memory.read m a

/-- Write one unit, keeping the addresses strictly rising. -/
def Memory.write {w : Nat} : Memory w → Nat → BitVec w → Memory w
  | [], a, v => [(a, v)]
  | (b, u) :: m, a, v =>
    if a < b then (a, v) :: (b, u) :: m
    else if a = b then (a, v) :: m
    else (b, u) :: Memory.write m a v

/-- Write units at consecutive addresses, the first at `a`. -/
def Memory.writes {w : Nat} : Memory w → Nat → List (BitVec w) → Memory w
  | m, _, [] => m
  | m, a, v :: vs => Memory.writes (Memory.write m a v) (a + 1) vs

/-- The canonical form: the addresses rise strictly. -/
def Memory.wf {w : Nat} : Memory w → Bool
  | [] => true
  | [_] => true
  | (a, _) :: (b, u) :: m => decide (a < b) && Memory.wf ((b, u) :: m)

/-- The addresses written, in rising order. -/
def Memory.keys {w : Nat} (m : Memory w) : List Nat := m.map Prod.fst

/-- The contents of a buffer. -/
def Buffers.get (o : Buffers) : Space → Memory 8
  | .idx => o.idx
  | .rgb => o.rgb
  | .argb => o.argb

/-- Replace the contents of a buffer. -/
def Buffers.set (o : Buffers) (sp : Space) (m : Memory 8) : Buffers :=
  match sp with
  | .idx => { o with idx := m }
  | .rgb => { o with rgb := m }
  | .argb => { o with argb := m }

/-- `OutWrite` of bytes at consecutive addresses of a buffer (R80). -/
def outWrites (sp : Space) (a : Nat) (vs : List Byte) (s : State) : State :=
  { s with out := s.out.set sp (Memory.writes (s.out.get sp) a vs) }

/-- One byte of a buffer as the host reads it: the byte written, or the free value of an unwritten one (R50,
R292; log entry 5). -/
def outByte (sp : Space) (a : Nat) (s : State) : Byte :=
  (Memory.read (s.out.get sp) a).getD (Config.unwrittenByte s.epoch sp.number a)

/-- The first `n` bytes of a buffer (R247). -/
def outBytes (sp : Space) (n : Nat) (s : State) : List Byte := (List.range n).map fun a => outByte sp a s

/-- `CmapRead(k)` (R48): the entry filled, or the free value of an unwritten one (R47; log entry 5). R48 calls
k ≥ 256 a precondition violation and gives it no result: the model then reads its own list at k all the same
(DESIGN CHOICE, log entry 21). No run does so: a lookup's k is one byte, and READ_CMAP's is below CMAP_COUNT,
which `Inv` bounds by 256. -/
def cmapRead (k : Nat) (s : State) : BitVec 24 :=
  (Memory.read s.cmap k).getD (Config.unwrittenEntry s.epoch k)

/-- `CmapWrite(k, e)` (R48). R48 calls k ≥ 256 a precondition violation and gives it no result: the model then
writes its own list at k all the same (DESIGN CHOICE, log entry 21). No step does so, whatever the state:
`fetchCmap` gives CMAP_FILL only for an entry below 256. -/
def cmapWrite (k : Nat) (e : BitVec 24) (s : State) : State := { s with cmap := Memory.write s.cmap k e }

/-! ### The command port -/

/-- Return the outcome and the data of the current command to the host (R15, R52). -/
def reply (o : CmdOutcome) (d : Data) (s : State) : State := { s with resp := some ⟨o, d⟩ }

/-- A refused command: no change but REFUSED, and the host is told (R15, R249). -/
def refuse (s : State) : State := reply .refused .none (markRefused s)

/-- Release the stream: no further StreamRead, IN_POS frozen (R197, R266). -/
def releaseStream (s : State) : State := { s with stream := none }

/-! ### The failure path -/

/-- `raise <Error>` inside LOAD (R266): record the code, the phase and the pixel, invalidate the result,
release the stream, enter CLOSED and return fail(code). -/
def raise (e : Err) (s : State) : State :=
  reply (.fail e) .none
    { releaseStream (setResultValid false s) with
      error := { code := e, phase := s.phase, pix := s.pix }
      phase := .closed }

/-- The error a SHORT read raises depends only on the phase: TruncatedDataError in LOAD_PIXEL, IOError in
LOAD_HDR, LOAD_ID and LOAD_CMAP; no other phase reads (R262, C3). -/
def shortError : Phase → Err
  | .loadPixel => .truncatedData
  | .unopened | .opened | .loadHdr | .loadId | .loadCmap | .loadDispatch | .decoded | .closed => .ioError

/-- A SHORT read always enters the failure path (R76). -/
def raiseShort (s : State) : State := raise (shortError s.phase) s

/-! ### The stream port -/

/-- What StreamRead answers (R75): the bytes, or SHORT, each with the state after it; or no answer (R77). -/
inductive ReadResult where
  | bytes (p : List Byte) (s : State)
  | short (s : State)
  | stop (f : Fault)

/-- `StreamRead(n)` (R75). A short read consumes every remaining byte (D11). Where the stream neither holds the
bytes nor signals its end, it waits for ever (R77). -/
def streamRead (n : Nat) (s : State) : ReadResult :=
  match s.stream with
  | none => .stop .noStream
  | some st =>
    if s.inPos.toNat + n ≤ st.bytes.length then
      .bytes ((st.bytes.drop s.inPos.toNat).take n) { s with inPos := s.inPos + BitVec.ofNat 64 n }
    else if st.ended then .short { s with inPos := BitVec.ofNat 64 st.bytes.length }
    else .stop .streamStall

/-! ### Pixels -/

/-- The writes of a pixel with channels r, g, b and alpha a to OUT_RGB and OUT_ARGB (R219 to R221). -/
def emitColor (a r g b : Byte) (s : State) : State :=
  outWrites .argb (pixelAddr .argb s.pix) [a, r, g, b] (outWrites .rgb (pixelAddr .rgb s.pix) [r, g, b] s)

/-- The write of a pixel's index to OUT_IDX (R219). -/
def emitIndex (i : Byte) (s : State) : State := outWrites .idx (pixelAddr .idx s.pix) [i] s

/-- The tail of one iteration of PIXEL_LOOP: the only decrement of PKT_REMAIN, in RLE strategies, and the
increment of PIX (R176, R194, C10). -/
def completePixel (s : State) : State :=
  { s with
    pkt := if s.strategy.isRle then { s.pkt with remain := s.pkt.remain - 1 } else s.pkt
    pix := s.pix + 1 }

/-- EMIT_IDX with CMAP_LOOKUP and the tail of the loop (R155, R156 stages 2 and 3, R219): an index at or above
CMAP_COUNT raises IndexOutOfRangeError before any write of the pixel; otherwise the pixel's index, colours and
the synthesized alpha are written and the loop goes on. -/
def emitIndexed (idx : Byte) (s : State) : State :=
  if s.cmapCount.toNat ≤ idx.toNat then raise .indexOutOfRange s
  else
    let e := cmapRead idx.toNat s
    completePixel (emitColor Config.synthAlpha (entryRed e) (entryGreen e) (entryBlue e) (emitIndex idx s))

/-- The end of PIXEL_LOOP and FINISH: note an overrun, validate the result, release the stream, enter DECODED;
LOAD returns ok (R177, R194, R197, R243). -/
def finish (s : State) : State :=
  reply .ok .none { releaseStream (setResultValid true (noteOverrun s)) with phase := .decoded }

end Sys2Proof.Machine
end

