-- ==== Sys2Proof/Machine/Capture.lean ====
section
/-! DEFINITION. Header capture and image-ID consumption (40_header_capture.md R130 to R135). The bytes are read by
the fetch (`fetchStream` in Fetch.lean), which takes the failure path when they are short. -/

namespace Sys2Proof.Machine

/-- HDR_CAPTURE (R131): the twelve header registers as read, nothing validated (R132), then SIZES (R133), then
LOAD_ID. -/
def execHdrCapture (h : Header) (s : State) : Host.Outcome State Fault Refusal :=
  .next { s with hdr := h, sizes := sizesOf h, phase := .loadId }

/-- ID_CONSUME (R135): the ID bytes are stored uninterpreted; LOAD_CMAP is entered, with IN_POS at colormap
entry 0 (R117, R150). -/
def execIdConsume (bytes : List Byte) (s : State) : Host.Outcome State Fault Refusal :=
  .next { s with idBuf := bytes, phase := .loadCmap }

end Sys2Proof.Machine
end

