-- ==== Sys2Proof/Machine/Colormap.lean ====
section
/-! DEFINITION. The colormap fill and the lookup (41_colormap.md R150 to R158). The size check and the end of
CMAP_PHASE are `fetchCmap` in Fetch.lean. -/

namespace Sys2Proof.Machine

/-- CMAP_FILL(k) (R152): entry k is the triple just read, whose three bytes end at IN_POS (R39; log entry 10), so
that entries are filled in increasing k (R150). For k ≥ 256, which R48 excludes and no step passes, what is
written is the model's choice (DESIGN CHOICE, log entry 21). -/
def execCmapFill (b g r : Byte) (s : State) : Host.Outcome State Fault Refusal :=
  .next (cmapWrite (cmapEntryAt (s.inPos - 3) s.hdr) (packEntry b g r) s)

/-- CMAP_LOOKUP(idx) and the rest of EMIT_IDX (R155, R219): stages 2 and 3 of the lookup pipeline (R156) for pixel
PIX. -/
def execCmapLookup (idx : Byte) (s : State) : Host.Outcome State Fault Refusal := .next (emitIndexed idx s)

end Sys2Proof.Machine
end

