-- ==== Sys2Proof/Machine/Commands.lean ====
section
/-! DEFINITION. The host commands (45_host_interface.md R239 to R249). A command of a phase that gives it no meaning is
refused: REFUSED is set and nothing else changes (R15, R249). -/

namespace Sys2Proof.Machine

/-- RESET (R240, R290): every register to its reset value, any stream detached, the memories unspecified (a new
epoch of free values, log entry 5). The host's pending commands and the parameter are not the block's. It is
accepted in every phase, and is the only way out of DECODED and CLOSED (R269, R270). -/
def execCmdReset (s : State) : Host.Outcome State Fault Refusal :=
  .next (reply .ok .none
    { State.reset with cmds := s.cmds, maxPixelCount := s.maxPixelCount, epoch := s.epoch + 1 })

/-- OPEN(S) (R241, R242): accepted in UNOPENED with ERR = NONE. If the resource cannot be acquired, ERR and
ERR_PHASE are written, no stream is attached and PHASE stays UNOPENED; otherwise S is attached at position 0. -/
def execCmdOpen (stream : Option Stream) (s : State) : Host.Outcome State Fault Refusal :=
  if s.phase = .unopened ∧ s.error.code = .none then
    match stream with
    | none =>
      .next (reply (.fail .ioError) .none
        { s with error := { s.error with code := .ioError, phase := .unopened } })
    | some st => .next (reply .ok .none { s with stream := some st, inPos := 0, phase := .opened })
  else .next (refuse s)

/-- LOAD (R243): accepted in OPENED; LOAD_HDR is entered, and the steps that follow run the load to DECODED or
CLOSED, where its outcome is returned (log entries 1 and 18). -/
def execCmdLoad (s : State) : Host.Outcome State Fault Refusal :=
  if s.phase = .opened then .next { s with phase := .loadHdr, resp := none } else .next (refuse s)

/-- A result accessor (R244): accepted only in DECODED with RESULT_VALID (R42; log entry 11); it returns its data
and changes no state of the block. -/
def accessor (d : Data) (s : State) : State :=
  if s.phase = .decoded ∧ s.flags.resultValid = true then reply .ok d s else refuse s

/-- READ_HEADER (R245): the twelve header fields, the four sizes and the image ID. -/
def execCmdReadHeader (s : State) : Host.Outcome State Fault Refusal :=
  .next (accessor (.header s.hdr s.sizes s.idBuf) s)

/-- Colormap entry `k` as the triple (blue, green, red) (R246). -/
def entryTriple (k : Nat) (s : State) : Byte × Byte × Byte :=
  (entryBlue (cmapRead k s), entryGreen (cmapRead k s), entryRed (cmapRead k s))

/-- READ_CMAP (R246): entries 0 to CMAP_COUNT - 1. -/
def execCmdReadCmap (s : State) : Host.Outcome State Fault Refusal :=
  .next (accessor (.colors ((List.range s.cmapCount.toNat).map fun k => entryTriple k s)) s)

/-- READ_IDX (R247): OUT_IDX when IDX_PRESENT, and the empty sequence otherwise (R223, D33). -/
def execCmdReadIdx (s : State) : Host.Outcome State Fault Refusal :=
  .next (accessor (.bytes (if s.flags.idxPresent then outBytes .idx s.sizes.size8.toNat s else [])) s)

/-- READ_RGB24 (R247). -/
def execCmdReadRgb24 (s : State) : Host.Outcome State Fault Refusal :=
  .next (accessor (.bytes (outBytes .rgb s.sizes.size24.toNat s)) s)

/-- READ_ARGB32 (R247). -/
def execCmdReadArgb32 (s : State) : Host.Outcome State Fault Refusal :=
  .next (accessor (.bytes (outBytes .argb s.sizes.size32.toNat s)) s)

/-- The registers READ_STATUS returns (R248). -/
def statusOf (s : State) : Status :=
  { phase := s.phase.code, strategy := s.strategy.code, cmapCount := s.cmapCount, pix := s.pix,
    pktEnc := s.pkt.enc, pktLen := s.pkt.len, pktRemain := s.pkt.remain, pktPayload := s.pkt.payload,
    inPos := s.inPos, resultValid := s.flags.resultValid, idxPresent := s.flags.idxPresent,
    pktOverrun := s.flags.pktOverrun, err := s.error.code.code, errPhase := s.error.phase.code,
    errPix := s.error.pix, refused := s.refused }

/-- READ_STATUS (R248): accepted in every phase; never exposes buffer contents. -/
def execCmdReadStatus (s : State) : Host.Outcome State Fault Refusal :=
  .next (reply .ok (.status (statusOf s)) s)

end Sys2Proof.Machine
end

