-- ==== Sys2Proof/Machine/Packets.lean ====
section
/-! DEFINITION. The two packet instructions, RAW_PKT and RUN_PKT (42_rle_packet.md R172 to R174). The header byte is
one step (log entry 1); the packet's pixels are the payload steps that follow it, which take their payloads by
R175 (`fetchPayload` in Fetch.lean). -/

namespace Sys2Proof.Machine

/-- The packet registers after a header byte (R172): PKT_PAYLOAD is not written. -/
def openPacket (enc : Bool) (n : BitVec 7) (s : State) : State :=
  { s with pkt := { enc := enc, len := runLength n, remain := runLength n, payload := s.pkt.payload } }

/-- RAW_PKT (R172, R173): PKT_ENC 0, PKT_LEN and PKT_REMAIN the run length; PKT_PAYLOAD unchanged, since each
pixel of the packet reads its own payload (D17). -/
def execRawPkt (n : BitVec 7) (s : State) : Host.Outcome State Fault Refusal := .next (openPacket false n s)

/-- RUN_PKT (R172, R174): PKT_ENC 1, PKT_LEN and PKT_REMAIN the run length, then the packet's one payload of P
bytes is read and latched; a short read of it raises TruncatedDataError with the header registers written. -/
def execRunPkt (n : BitVec 7) (s : State) : Host.Outcome State Fault Refusal :=
  match s.strategy.payload with
  | none => .fault .noStrategy
  | some (_, p) =>
    match streamRead p (openPacket true n s) with
    | .bytes bs t => .next { t with pkt := { t.pkt with payload := lePack bs } }
    | .short t => .next (raiseShort t)
    | .stop f => .fault f

end Sys2Proof.Machine
end

