-- ==== Sys2Proof/Machine/Strategies.lean ====
section
/-! DEFINITION. The seven dispatch keys (43_pixel_dispatch.md R190 to R193): each of the six supported ones selects
its strategy (44_unpack_engines.md R213 to R218) for the pixel loop; any other key is unsupported. The pixels of
a strategy are the steps that follow in LOAD_PIXEL: its payload source (R175, R196) is `fetchPayload` in
Fetch.lean, its unpack engine the payload instruction of Unpack.lean or Colormap.lean. -/

namespace Sys2Proof.Machine

/-- DISPATCH after the key is found (R190): STRATEGY and IDX_PRESENT are written, then the capacity check is
taken (R192, R200), then PIX and the packet registers are cleared and LOAD_PIXEL is entered. -/
def selectStrategy (st : Strategy) (s : State) : State :=
  let t := setIdxPresent st { s with strategy := st }
  if t.sizes.pixelCount.toNat > t.maxPixelCount then raise .capacity t
  else { t with pix := 0, pkt := zeroPacket, phase := .loadPixel }

/-- IDX_RAW8, key 0x0108: indexed-uncompressed (R190, R213). -/
def execIdxRaw8 (s : State) : Host.Outcome State Fault Refusal := .next (selectStrategy .idxRaw8 s)

/-- TC_RAW24, key 0x0218: truecolor-uncompressed-24 (R190, R215). -/
def execTcRaw24 (s : State) : Host.Outcome State Fault Refusal := .next (selectStrategy .tcRaw24 s)

/-- TC_RAW32, key 0x0220: truecolor-uncompressed-32 (R190, R217). -/
def execTcRaw32 (s : State) : Host.Outcome State Fault Refusal := .next (selectStrategy .tcRaw32 s)

/-- IDX_RLE8, key 0x0908: indexed-RLE (R190, R214). -/
def execIdxRle8 (s : State) : Host.Outcome State Fault Refusal := .next (selectStrategy .idxRle8 s)

/-- TC_RLE24, key 0x0918: truecolor-RLE-24 (R190, R216). -/
def execTcRle24 (s : State) : Host.Outcome State Fault Refusal := .next (selectStrategy .tcRle24 s)

/-- TC_RLE32, key 0x0920: truecolor-RLE-32 (R190, R218). -/
def execTcRle32 (s : State) : Host.Outcome State Fault Refusal := .next (selectStrategy .tcRle32 s)

/-- UNSUPPORTED, any other key: UnsupportedFormatError; STRATEGY and IDX_PRESENT keep their values (R193). -/
def execUnsupported (_key : Half) (s : State) : Host.Outcome State Fault Refusal :=
  .next (raise .unsupportedFormat s)

end Sys2Proof.Machine
end

