-- ==== Sys2Proof/Machine/Unpack.lean ====
section
/-! DEFINITION. The payload unpack instructions with their emit operations (44_unpack_engines.md R210 to R212, R220 to
R222), each followed by the tail of the pixel loop (43_pixel_dispatch.md R194): one iteration is one step
(70_reset_and_hazards.md R308). -/

namespace Sys2Proof.Machine

/-- UNPACK8 and EMIT_IDX (R210, R219): the index is v[7:0], stage 1 of the lookup pipeline; CMAP_LOOKUP of it,
stages 2 and 3, follows within the same iteration (R155, R156). -/
def execUnpack8 (idx : Byte) (s : State) : Host.Outcome State Fault Refusal := .next (emitIndexed idx s)

/-- UNPACK24 and EMIT_TC24 (R211, R220): R, G, B from the triple, alpha synthesized (R222); OUT_IDX is not
written. -/
def execUnpack24 (b g r : Byte) (s : State) : Host.Outcome State Fault Refusal :=
  .next (completePixel (emitColor Config.synthAlpha r g b s))

/-- UNPACK32 and EMIT_TC32 (R212, R221): R, G, B and the payload's own alpha (R222); OUT_IDX is not written. -/
def execUnpack32 (b g r a : Byte) (s : State) : Host.Outcome State Fault Refusal :=
  .next (completePixel (emitColor a r g b s))

end Sys2Proof.Machine
end

