-- ==== Sys2Proof/Machine/Dispatch.lean ====
section
/-! DEFINITION. The dispatch: one arm per constructor of `Instr`. -/

namespace Sys2Proof.Machine

def exec (i : Instr) (s : State) : Host.Outcome State Fault Refusal :=
  match i with
  | .rawPkt n => Sys2Proof.Machine.execRawPkt n s
  | .runPkt n => Sys2Proof.Machine.execRunPkt n s
  | .idxRaw8 => Sys2Proof.Machine.execIdxRaw8 s
  | .tcRaw24 => Sys2Proof.Machine.execTcRaw24 s
  | .tcRaw32 => Sys2Proof.Machine.execTcRaw32 s
  | .idxRle8 => Sys2Proof.Machine.execIdxRle8 s
  | .tcRle24 => Sys2Proof.Machine.execTcRle24 s
  | .tcRle32 => Sys2Proof.Machine.execTcRle32 s
  | .unsupported key => Sys2Proof.Machine.execUnsupported key s
  | .hdrCapture h => Sys2Proof.Machine.execHdrCapture h s
  | .idConsume bytes => Sys2Proof.Machine.execIdConsume bytes s
  | .cmapFill b g r => Sys2Proof.Machine.execCmapFill b g r s
  | .cmapLookup idx => Sys2Proof.Machine.execCmapLookup idx s
  | .unpack8 idx => Sys2Proof.Machine.execUnpack8 idx s
  | .unpack24 b g r => Sys2Proof.Machine.execUnpack24 b g r s
  | .unpack32 b g r a => Sys2Proof.Machine.execUnpack32 b g r a s
  | .cmdReset => Sys2Proof.Machine.execCmdReset s
  | .cmdOpen stream => Sys2Proof.Machine.execCmdOpen stream s
  | .cmdLoad => Sys2Proof.Machine.execCmdLoad s
  | .cmdReadHeader => Sys2Proof.Machine.execCmdReadHeader s
  | .cmdReadCmap => Sys2Proof.Machine.execCmdReadCmap s
  | .cmdReadIdx => Sys2Proof.Machine.execCmdReadIdx s
  | .cmdReadRgb24 => Sys2Proof.Machine.execCmdReadRgb24 s
  | .cmdReadArgb32 => Sys2Proof.Machine.execCmdReadArgb32 s
  | .cmdReadStatus => Sys2Proof.Machine.execCmdReadStatus s

end Sys2Proof.Machine
end

