-- ==== Sys2Proof/Machine/Fetch.lean ====
section
/-! DEFINITION. What the sequencer does next: PHASE says which unit is decoded, IN_POS where it starts
(10_state.md R39). The payload sources RLE_PAYLOAD (42_rle_packet.md R175) and RAW_PAYLOAD
(43_pixel_dispatch.md R196), the loop conditions of CMAP_PHASE (41_colormap.md R150) and PIXEL_LOOP (R194), and
taking a host command (R239). Also what the step does with a unit the decoder rejects, and the placing of a
table word as the next unit. -/

namespace Sys2Proof.Machine

/-- What the next step is: a unit to decode and run in a state, a step of the sequencer that decodes none, or
no step. -/
inductive Fetch where
  | unit (w : CodeWord) (s : State)
  | seq (s : State)
  | stop (f : Fault)

/-- A unit of `n` stream bytes (R75, R83); a short read enters the failure path (R76, R262). -/
def fetchStream (slot : Slot) (n : Nat) (s : State) : Fetch :=
  match streamRead n s with
  | .bytes bs t => .unit (plainWord slot bs) t
  | .short t => .seq (raiseShort t)
  | .stop f => .stop f

/-- Between commands the block waits for one; it takes one at a time (R239, R279). -/
def fetchCommand (s : State) : Fetch :=
  match s.cmds with
  | [] => .seq s
  | c :: rest => .unit ⟨.hostcmd8, [c.code], c.stream⟩ { s with cmds := rest }

/-- CMAP_PHASE (R150, R151): an oversized colormap raises CmapSizeError before any entry is read; while the entry at
IN_POS is one of those declared, it is read; then CMAP_COUNT is written and LOAD_DISPATCH entered. -/
def fetchCmap (s : State) : Fetch :=
  let n := (cmapEntries s.hdr).toNat
  if Config.cmapEntriesMax < n then .seq (raise .cmapSize s)
  else if cmapEntryAt s.inPos s.hdr < n then fetchStream .cmape24 Config.cmapEntryBytes s
  else .seq { s with cmapCount := (cmapEntries s.hdr).setWidth 9, phase := .loadDispatch }

/-- The payload of pixel PIX in slot `slot`, P = `p` bytes. In an RLE strategy (R175): with PKT_REMAIN = 0 the
next packet header is read first; in a RUN packet the payload is the latched one and no byte is read; in a RAW
packet it is the next literal. In a raw strategy it is read (R196). -/
def fetchPayload (slot : Slot) (p : Nat) (s : State) : Fetch :=
  if s.strategy.isRle then
    if s.pkt.remain = 0 then fetchStream .rlehdr8 1 s
    else if s.pkt.enc then .unit (plainWord slot (leBytes p s.pkt.payload)) s
    else fetchStream slot p s
  else fetchStream slot p s

/-- PIXEL_LOOP (R194): while PIX < PIXEL_COUNT, the payload of the next pixel; then FINISH (R197). -/
def fetchPixel (s : State) : Fetch :=
  match s.strategy.payload with
  | none => .stop .noStrategy
  | some (slot, p) =>
    if s.pix.toNat < s.sizes.pixelCount.toNat then fetchPayload slot p s else .seq (finish s)

/-- The next unit or step, by phase (R32, R39, R87). -/
def fetch (s : State) : Fetch :=
  match s.phase with
  | .unopened => fetchCommand s
  | .opened => fetchCommand s
  | .loadHdr => fetchStream .hdr18 Config.hdrBytes s
  | .loadId => fetchStream .idField s.hdr.idLength.toNat s
  | .loadCmap => fetchCmap s
  | .loadDispatch => .unit (plainWord .dkey16 (keyBytes s.hdr)) s
  | .loadPixel => fetchPixel s
  | .decoded => fetchCommand s
  | .closed => fetchCommand s

/-- A rejected unit: a reserved host command is refused in every phase (R118, R249); nothing else is fetched
that the decoder rejects. -/
def reject (e : DecodeError) (s : State) : Host.Outcome State Fault Refusal :=
  match e with
  | .reservedCommand _ => .next (refuse s)
  | .wrongLength _ => .fault .malformedUnit
  | .wrongOperand _ => .fault .malformedUnit

/-! ### Placing a table word as the next unit (log entry 9) -/

/-- A stream of `pos` bytes of zeros, a unit, operand bytes of zeros after it, and its end. -/
def placedStream (pos : Nat) (bytes : List Byte) : Stream :=
  ⟨List.replicate pos 0 ++ bytes ++ List.replicate 18 0, true⟩

/-- `s` with a stream that has these bytes at position `pos`, read up to there. -/
def placeInStream (pos : Nat) (bytes : List Byte) (s : State) : State :=
  { s with stream := some (placedStream pos bytes), inPos := BitVec.ofNat 64 pos }

/-- `s` in LOAD_PIXEL before the first payload of a pixel: with no pixel left to produce, at pixel 0 of an image
of one pixel. -/
def placeAtPixel (st : Strategy) (s : State) : State :=
  let t := { s with phase := .loadPixel, strategy := st, pkt := { s.pkt with remain := 0 } }
  if t.pix.toNat < t.sizes.pixelCount.toNat then t
  else
    let h := { t.hdr with width := 1, height := 1 }
    { t with hdr := h, sizes := sizesOf h, pix := 0 }

/-- `s` with a table word of `nbits` bits placed so that the next step fetches it. -/
def placeWord (nbits w : Nat) (s : State) : State :=
  match tableSlot nbits w with
  | none => s
  | some slot =>
    let bytes := tableBytes (nbits / 8) w
    match slot with
    | .hostcmd8 =>
      { s with
        phase := if s.phase.takesCommands then s.phase else .unopened
        cmds := ⟨BitVec.ofNat 8 w, some emptyStream⟩ :: s.cmds }
    | .dkey16 =>
      { s with
        phase := .loadDispatch
        hdr := { s.hdr with pixelDepth := BitVec.ofNat 8 w, imageType := BitVec.ofNat 8 (w / 256) } }
    | .hdr18 => placeInStream 0 bytes { s with phase := .loadHdr }
    | .cmape24 =>
      placeInStream (18 + s.hdr.idLength.toNat) bytes
        { s with phase := .loadCmap, hdr := { s.hdr with colorMapType := 1, cMapLength := 256 } }
    | .rlehdr8 => placeInStream 0 bytes (placeAtPixel (if s.strategy.isRle then s.strategy else .tcRle32) s)
    | .px32 => placeInStream 0 bytes (placeAtPixel .tcRaw32 s)
    | .idField => s
    | .px8 => s
    | .px24 => s
    | .lookup => s

end Sys2Proof.Machine
end

