-- ==== Sys2Proof/Machine/Step.lean ====
section
/-! DEFINITION. The step: fetch what the sequencer does next, decode it and run it (70_reset_and_hazards.md R308, log
entry 1). -/

namespace Sys2Proof.Machine

/-- One step of TGADEC. -/
def step (s : State) : Host.Outcome State Fault Refusal :=
  match fetch s with
  | .unit w t =>
    match decode w with
    | .ok i => exec i t
    | .error e => reject e t
  | .seq t => .next t
  | .stop f => .fault f

/-- `s` with a table word placed where `step` fetches its next unit (log entry 9). -/
def State.withFetchWord (s : State) (nbits w : Nat) : State := placeWord nbits w s

end Sys2Proof.Machine
end

