-- ==== Sys2Proof/Safety.lean ====
section
/-! DEFINITION. What the statements are about: the phases of a load, the invariant `Inv` of every run (10_state.md R30
to R51, 20_memory.md R80 to R82, 43_pixel_dispatch.md R194 to R202), the measure that bounds a load (R202), and
the commands that reset. -/

namespace Sys2Proof.Machine

/-- The phases inside LOAD (R32). -/
def Phase.loading : Phase → Bool
  | .loadHdr | .loadId | .loadCmap | .loadDispatch | .loadPixel => true
  | .unopened | .opened | .decoded | .closed => false

/-- The phases before LOAD_PIXEL in a decode. -/
def Phase.beforePixels : Phase → Bool
  | .unopened | .opened | .loadHdr | .loadId | .loadCmap | .loadDispatch => true
  | .loadPixel | .decoded | .closed => false

/-- The phases in which a stream is attached: from OPEN until its release (R197, R241, R266). -/
def Phase.attached : Phase → Bool
  | .opened | .loadHdr | .loadId | .loadCmap | .loadDispatch | .loadPixel => true
  | .unopened | .decoded | .closed => false

/-- The phases after the colormap is filled, failures apart. -/
def Phase.cmapDone : Phase → Bool
  | .loadDispatch | .loadPixel | .decoded => true
  | .unopened | .opened | .loadHdr | .loadId | .loadCmap | .closed => false

/-- The next unit is a host command whose code is RESET's. -/
def resetPending (s : State) : Prop := s.phase.takesCommands = true ∧ ∃ c rest, s.cmds = c :: rest ∧ c.code = 0x00

/-- The next unit is a host command whose code is OPEN's. -/
def openPending (s : State) : Prop := s.phase.takesCommands = true ∧ ∃ c rest, s.cmds = c :: rest ∧ c.code = 0x01

/-- The stream offset at which pixel data starts (R117). -/
def pixelOffset (h : Header) : Nat := 18 + h.idLength.toNat + 3 * (cmapEntries h).toNat

/-- The colormap entries filled so far, by phase: in LOAD_CMAP those before the entry IN_POS stands at (R39, R117),
after it all that are declared (R151), before it none; a failed load keeps what it had. -/
def filledEntries (s : State) : Nat :=
  match s.phase with
  | .unopened => 0
  | .opened => 0
  | .loadHdr => 0
  | .loadId => 0
  | .loadCmap => cmapEntryAt s.inPos s.hdr
  | .loadDispatch => (cmapEntries s.hdr).toNat
  | .loadPixel => (cmapEntries s.hdr).toNat
  | .decoded => (cmapEntries s.hdr).toNat
  | .closed => s.cmap.length

/-- The bytes of the pixels not yet produced that the stream position may be ahead by: a latched RUN payload with its
header, or a RAW header. -/
def aheadBytes (s : State) : Nat :=
  if s.pkt.remain = 0 then 0
  else if s.pkt.enc then 5
  else 1

/-- Where IN_POS may be, by phase (R38, R39, R117). -/
def posInPhase (s : State) : Prop :=
  match s.phase with
  | .unopened => s.inPos.toNat = 0
  | .opened => s.inPos.toNat = 0
  | .loadHdr => s.inPos.toNat = 0
  | .loadId => s.inPos.toNat = 18
  | .loadCmap => s.inPos.toNat = 18 + s.hdr.idLength.toNat + 3 * filledEntries s
  | .loadDispatch => s.inPos.toNat = pixelOffset s.hdr
  | .loadPixel => pixelOffset s.hdr ≤ s.inPos.toNat ∧
      s.inPos.toNat ≤ pixelOffset s.hdr + 5 * s.pix.toNat + aheadBytes s
  | .decoded => s.inPos.toNat < 2 ^ 36
  | .closed => s.inPos.toNat < 2 ^ 36

/-- The invariant of every run of TGADEC. -/
structure Inv (s : State) : Prop where
  /-- The size registers are those of the captured header (R133, R134). -/
  sizes : s.sizes = sizesOf s.hdr
  /-- The header registers hold their reset values until LOAD_HDR writes them (R33). -/
  header : s.phase = .unopened ∨ s.phase = .opened ∨ s.phase = .loadHdr → s.hdr = zeroHeader
  /-- Exactly the bytes of the pixels produced so far are written in OUT_RGB (R81, R82). -/
  rgb : Memory.keys s.out.rgb = List.range (3 * s.pix.toNat)
  /-- The same of OUT_ARGB. -/
  argb : Memory.keys s.out.argb = List.range (4 * s.pix.toNat)
  /-- The same of OUT_IDX, which is written only when IDX_PRESENT (R50). -/
  idx : Memory.keys s.out.idx = List.range (if s.flags.idxPresent then s.pix.toNat else 0)
  /-- Exactly the colormap entries filled so far are written (R47, R151). -/
  cmap : Memory.keys s.cmap = List.range (filledEntries s)
  /-- The fill never passes the declared entries, nor entry 255 (R48, R150). -/
  fill : filledEntries s ≤ (cmapEntries s.hdr).toNat ∧ filledEntries s ≤ 256
  /-- CMAP_COUNT is 0..256 (R36). -/
  count : s.cmapCount.toNat ≤ 256
  /-- After LOAD_CMAP, CMAP_COUNT counts the entries declared (R151), all of them filled. -/
  counted : s.phase.cmapDone = true → s.cmapCount.toNat = (cmapEntries s.hdr).toNat
  /-- Before that, no entry is counted. -/
  uncounted : s.phase.beforePixels = true → s.phase.cmapDone = false → s.cmapCount = 0
  /-- PIX never exceeds PIXEL_COUNT (R40). -/
  pix : s.pix.toNat ≤ s.sizes.pixelCount.toNat
  /-- PKT_REMAIN is at most PKT_LEN, which is at most 128 (R41). -/
  packet : s.pkt.remain.toNat ≤ s.pkt.len.toNat ∧ s.pkt.len.toNat ≤ 128
  /-- Before LOAD_PIXEL nothing is selected, counted or flagged. -/
  early : s.phase.beforePixels = true → s.strategy = .none ∧ s.pix = 0 ∧ s.pkt = zeroPacket ∧
    s.flags = ⟨false, false, false⟩
  /-- A strategy without packets leaves the packet registers clear (R41). -/
  rawPacket : s.strategy.isRle = false → s.pkt = zeroPacket
  /-- IDX_PRESENT is IS_INDEXED(STRATEGY) (R42, R190). -/
  present : s.flags.idxPresent = s.strategy.isIndexed
  /-- In LOAD_PIXEL and DECODED a strategy is selected and the image fits (R192, R201). -/
  selected : s.phase = .loadPixel ∨ s.phase = .decoded →
    s.strategy ≠ .none ∧ s.sizes.pixelCount.toNat ≤ s.maxPixelCount
  /-- RESULT_VALID is set in DECODED and only there (R42, R244). -/
  valid : s.flags.resultValid = true ↔ s.phase = .decoded
  /-- PKT_OVERRUN is set when the loop ended inside a packet and only then (R42, R177). -/
  overrun : s.flags.pktOverrun = true ↔ s.phase = .decoded ∧ s.pkt.remain ≠ 0
  /-- In DECODED every pixel was produced (R194). -/
  done : s.phase = .decoded → s.pix = s.sizes.pixelCount
  /-- A stream is attached from OPEN until the load ends (R197, R241, R266). -/
  attached : s.stream.isSome = s.phase.attached
  /-- The read position never passes the end of the stream (R75). -/
  within : ∀ st, s.stream = some st → s.inPos.toNat ≤ st.bytes.length
  /-- Where IN_POS may be. -/
  pos : posInPhase s
  /-- An error is recorded in CLOSED, and otherwise only by a failed OPEN (R242, R266). -/
  closed : s.phase = .closed → s.error.code ≠ .none ∧ s.error.pix = s.pix ∧ s.error.phase.loading = true
  clear : s.phase ≠ .closed → s.error.pix = 0 ∧ s.error.phase = .unopened ∧
    (s.error.code = .none ∨ s.phase = .unopened ∧ s.error.code = .ioError)

/-- Which unit the sequencer reads from the stream next, and its length in bytes, where it is about to read one
(R39, R83, R175, R196). -/
def nextRead (s : State) : Option (Slot × Nat) :=
  match s.phase with
  | .loadHdr => some (.hdr18, 18)
  | .loadId => some (.idField, s.hdr.idLength.toNat)
  | .loadCmap =>
    if (cmapEntries s.hdr).toNat ≤ 256 ∧ cmapEntryAt s.inPos s.hdr < (cmapEntries s.hdr).toNat then
      some (.cmape24, 3)
    else none
  | .loadPixel =>
    match s.strategy.payload with
    | none => none
    | some (sl, p) =>
      if s.sizes.pixelCount.toNat ≤ s.pix.toNat then none
      else if s.strategy.isRle = true ∧ s.pkt.remain = 0 then some (.rlehdr8, 1)
      else if s.strategy.isRle = true ∧ s.pkt.enc = true then none
      else some (sl, p)
  | .unopened => none
  | .opened => none
  | .loadDispatch => none
  | .decoded => none
  | .closed => none

/-- The channels (alpha, red, green, blue) that EMIT writes for payload value `v` in the current strategy (R195,
R219 to R222): from the colormap entry, the triple or the quad. -/
def emitted (s : State) (v : BitVec 32) : Byte × Byte × Byte × Byte :=
  match s.strategy with
  | .tcRaw32 => (v.extractLsb' 24 8, v.extractLsb' 16 8, v.extractLsb' 8 8, v.extractLsb' 0 8)
  | .tcRle32 => (v.extractLsb' 24 8, v.extractLsb' 16 8, v.extractLsb' 8 8, v.extractLsb' 0 8)
  | .tcRaw24 => (255, v.extractLsb' 16 8, v.extractLsb' 8 8, v.extractLsb' 0 8)
  | .tcRle24 => (255, v.extractLsb' 16 8, v.extractLsb' 8 8, v.extractLsb' 0 8)
  | .idxRaw8 =>
    let e := cmapRead (v.extractLsb' 0 8).toNat s
    (255, e.extractLsb' 16 8, e.extractLsb' 8 8, e.extractLsb' 0 8)
  | .idxRle8 =>
    let e := cmapRead (v.extractLsb' 0 8).toNat s
    (255, e.extractLsb' 16 8, e.extractLsb' 8 8, e.extractLsb' 0 8)
  | .none => (255, 0, 0, 0)

/-- Pixel `i` of the buffers of `t` is what EMIT writes in `s` for payload value `v` (R81, R219 to R221). -/
def pixelIs (s t : State) (i : Nat) (v : BitVec 32) : Prop :=
  (s.strategy.isIndexed = true → Memory.read t.out.idx i = some (v.extractLsb' 0 8)) ∧
    Memory.read t.out.rgb (3 * i) = some (emitted s v).2.1 ∧
    Memory.read t.out.rgb (3 * i + 1) = some (emitted s v).2.2.1 ∧
    Memory.read t.out.rgb (3 * i + 2) = some (emitted s v).2.2.2 ∧
    Memory.read t.out.argb (4 * i) = some (emitted s v).1 ∧
    Memory.read t.out.argb (4 * i + 1) = some (emitted s v).2.1 ∧
    Memory.read t.out.argb (4 * i + 2) = some (emitted s v).2.2.1 ∧
    Memory.read t.out.argb (4 * i + 3) = some (emitted s v).2.2.2

/-- Every byte of the buffers `o'` outside the pixels `first` to `first + k - 1` reads as in `o`. -/
def otherPixelsKept (first k : Nat) (o o' : Buffers) : Prop :=
  (∀ a, a < 3 * first ∨ 3 * (first + k) ≤ a → Memory.read o'.rgb a = Memory.read o.rgb a) ∧
    (∀ a, a < 4 * first ∨ 4 * (first + k) ≤ a → Memory.read o'.argb a = Memory.read o.argb a) ∧
    ∀ a, a < first ∨ first + k ≤ a → Memory.read o'.idx a = Memory.read o.idx a

/-- The steps left of the pixel PIX: the packet header, if one is due, and the iteration itself (log entry 1). -/
def pixelStage (s : State) : Nat := if s.strategy.isRle = true ∧ s.pkt.remain = 0 then 2 else 1

/-- A bound on the steps left of a load: every step of a load makes it smaller (R202). -/
def loadMeasure (s : State) : Nat :=
  match s.phase with
  | .loadHdr => 2 * 2 ^ 32 + 262
  | .loadId => 2 * 2 ^ 32 + 261
  | .loadCmap => 2 * 2 ^ 32 + 4 + (256 - cmapEntryAt s.inPos s.hdr)
  | .loadDispatch => 2 * 2 ^ 32 + 3
  | .loadPixel => 2 * (2 ^ 32 - s.pix.toNat) + pixelStage s
  | .unopened => 0
  | .opened => 0
  | .decoded => 0
  | .closed => 0

/-- The phases one step may lead to from a phase (R32: linear, no cycles, no retries; RESET apart). -/
def Phase.successors : Phase → List Phase
  | .unopened => [.unopened, .opened]
  | .opened => [.opened, .loadHdr]
  | .loadHdr => [.loadId, .closed]
  | .loadId => [.loadCmap, .closed]
  | .loadCmap => [.loadCmap, .loadDispatch, .closed]
  | .loadDispatch => [.loadPixel, .closed]
  | .loadPixel => [.loadPixel, .decoded, .closed]
  | .decoded => [.decoded]
  | .closed => [.closed]

end Sys2Proof.Machine
end

