-- ==== Sys2Proof/Certificates/Slice0/Obligations.lean ====
section
/-! DEFINITION. The statements for the provers, from the numbered rules of spec/. Each docstring names the rule a
statement formalises. A statement that reads unwritten memory holds for every value of the free values of
Config. IN_POS is 64 bits wide (10_state.md R38): where a statement adds to it, the stream is shorter than
2^64 bytes. The fields `cmds`, `resp` and `epoch` are the model's own (log entries 2 and 5): what a statement
says of them is the model's choice and no rule's. -/

open Sys2Proof Sys2Proof.Machine

/-! ### Encodings -/

/-- 30_encoding.md R101 to R108, R118: encoding loses no operand bit, whatever the instruction. -/
def Obligations.EncodedInstructionDecodesBack : Prop :=
  ∀ i : Instr, i.wellFormed = true → decode (encode i) = .ok i

/-- 30_encoding.md R112: each accepted code word stands for one well-formed instruction and is that
instruction's encoding. -/
def Obligations.DecodedWordReencodes : Prop :=
  ∀ (w : CodeWord) (i : Instr), decode w = .ok i →
    i.wellFormed = true ∧ (encode i).slot = w.slot ∧ (encode i).bytes = w.bytes ∧
      (w.slot ≠ .hostcmd8 → (encode i).stream = w.stream)

/-- 95_test_vectors.md L1.1, L1.2, L2.3, L2.5, R118: a few words written out from the spec. -/
def Obligations.SpecWordsDecodeAsWritten : Prop :=
  decode (plainWord .rlehdr8 [0x7F]) = .ok (.rawPkt 127) ∧
  decode (plainWord .rlehdr8 [0x80]) = .ok (.runPkt 0) ∧
  decode (plainWord .dkey16 [0x20, 0x09]) = .ok .tcRle32 ∧
  decode (plainWord .dkey16 [0x18, 0x0A]) = .ok (.unsupported 0x0A18) ∧
  decode (plainWord .cmape24 [0x10, 0x20, 0x30]) = .ok (.cmapFill 0x10 0x20 0x30) ∧
  decode (plainWord .hostcmd8 [0x08]) = .ok .cmdReadStatus ∧
  decode (plainWord .hdr18 [0x00, 0x00, 0x02, 0x00, 0x00, 0x00, 0x00, 0x00, 0x00, 0x00, 0x00, 0x00, 0x02, 0x00,
    0x01, 0x00, 0x18, 0x00]) =
    .ok (.hdrCapture { zeroHeader with imageType := 2, width := 2, height := 1, pixelDepth := 24 })

/-- 42_rle_packet.md R171, 30_encoding.md R109, R113: the flag is bit 7; the run length is bits 6..0 plus 1,
whatever the flag; every byte decodes. -/
def Obligations.PacketHeaderFields : Prop :=
  ∀ b : Byte, ∃ n : BitVec 7,
    decode (plainWord .rlehdr8 [b]) = .ok (if b &&& 0x80 ≠ 0 then .runPkt n else .rawPkt n) ∧
      (runLength n).toNat = (b &&& 0x7F).toNat + 1

/-- 30_encoding.md R108: the dispatch key packs imageType in bits 15..8 and pixelDepth in bits 7..0; the six
keys of the table are six pairs, and every other pair is UNSUPPORTED with its own key. -/
def Obligations.DispatchKeyPacksTypeAndDepth : Prop :=
  ∀ type depth : Byte,
    decode (plainWord .dkey16 [depth, type]) = .ok
      (if type = 1 ∧ depth = 8 then .idxRaw8
       else if type = 2 ∧ depth = 24 then .tcRaw24
       else if type = 2 ∧ depth = 32 then .tcRaw32
       else if type = 9 ∧ depth = 8 then .idxRle8
       else if type = 9 ∧ depth = 24 then .tcRle24
       else if type = 9 ∧ depth = 32 then .tcRle32
       else .unsupported (type ++ depth))

/-- 30_encoding.md R118: the nine codes, and the reserved ones, which the step refuses in every phase between
commands. (That a stream operand beside a code other than OPEN's is ignored is the model's choice, log entry 15;
the queue `cmds` and the response `resp` are the model's, log entry 2.) -/
def Obligations.CommandCodesAndReservedCodes : Prop :=
  (∀ op : Option Stream,
    decode ⟨.hostcmd8, [0x00], op⟩ = .ok .cmdReset ∧ decode ⟨.hostcmd8, [0x01], op⟩ = .ok (.cmdOpen op) ∧
    decode ⟨.hostcmd8, [0x02], op⟩ = .ok .cmdLoad ∧ decode ⟨.hostcmd8, [0x03], op⟩ = .ok .cmdReadHeader ∧
    decode ⟨.hostcmd8, [0x04], op⟩ = .ok .cmdReadCmap ∧ decode ⟨.hostcmd8, [0x05], op⟩ = .ok .cmdReadIdx ∧
    decode ⟨.hostcmd8, [0x06], op⟩ = .ok .cmdReadRgb24 ∧ decode ⟨.hostcmd8, [0x07], op⟩ = .ok .cmdReadArgb32 ∧
    decode ⟨.hostcmd8, [0x08], op⟩ = .ok .cmdReadStatus) ∧
  ∀ (s : State) (c : HostCmd) (rest : List HostCmd), s.phase.takesCommands = true → s.cmds = c :: rest →
    9 ≤ c.code.toNat →
      step s = .next { s with cmds := rest, refused := true, resp := some ⟨.refused, .none⟩ }

/-- 00_scope.md R13, 30_encoding.md R110: a payload of at most four bytes packs little-endian, p[0] in bits 7..0,
the bytes beyond it 0; unpacking gives the bytes back. -/
def Obligations.PayloadPacksLittleEndian : Prop :=
  ∀ bs : List Byte, bs.length ≤ 4 →
    (∀ i, i < 4 → (lePack bs).extractLsb' (8 * i) 8 = bs.getD i 0) ∧ leBytes bs.length (lePack bs) = bs

/-! ### The step and the stream -/

/-- 10_state.md R39: PHASE, with PIX and the packet registers in LOAD_PIXEL, picks the unit; IN_POS says where it
starts; the step decodes it and runs it with IN_POS advanced by its length. A unit that takes no stream byte is
run without moving IN_POS: the dispatch key of the captured header, the latched payload of a RUN packet
(42_rle_packet.md R175) and a host command. (How steps divide a load: log entry 1.) -/
def Obligations.StepRunsTheDecodedUnit : Prop :=
  (∀ (s : State) (sl : Slot) (n : Nat) (st : Stream), nextRead s = some (sl, n) → s.stream = some st →
    s.inPos.toNat + n ≤ st.bytes.length →
    let unit : CodeWord := plainWord sl ((st.bytes.drop s.inPos.toNat).take n)
    ∃ (i : Instr) (q : BitVec 64), (st.bytes.length < 2 ^ 64 → q.toNat = s.inPos.toNat + n) ∧
      decode unit = .ok i ∧ i.wellFormed = true ∧ fetch s = .unit unit { s with inPos := q } ∧
      step s = exec i { s with inPos := q }) ∧
  (∀ s : State, s.phase = .loadDispatch →
    ∃ i : Instr, decode (plainWord .dkey16 [s.hdr.pixelDepth, s.hdr.imageType]) = .ok i ∧ step s = exec i s) ∧
  (∀ (s : State) (sl : Slot) (p : Nat), s.phase = .loadPixel → s.strategy.payload = some (sl, p) →
    s.pix.toNat < s.sizes.pixelCount.toNat → s.strategy.isRle = true →
    s.pkt.remain ≠ 0 → s.pkt.enc = true →
    ∃ i : Instr, decode (plainWord sl (leBytes p s.pkt.payload)) = .ok i ∧ step s = exec i s) ∧
  ∀ (s : State) (c : HostCmd) (rest : List HostCmd) (i : Instr), s.phase.takesCommands = true →
    s.cmds = c :: rest → decode ⟨.hostcmd8, [c.code], c.stream⟩ = .ok i →
    step s = exec i { s with cmds := rest }

/-- 30_encoding.md R112, R113, R114: whatever is fetched decodes to a well-formed instruction, reserved host
commands apart; so no step ends in malformedUnit. -/
def Obligations.FetchedUnitsAreLegal : Prop :=
  ∀ s : State, step s ≠ .fault .malformedUnit ∧ ∀ (w : CodeWord) (t : State), fetch s = .unit w t →
    (∃ i, decode w = .ok i ∧ i.wellFormed = true) ∨
      (w.slot = .hostcmd8 ∧ ∃ c : Byte, 9 ≤ c.toNat ∧ decode w = .error (.reservedCommand c))

/-- 60_exceptions.md R279, 45_host_interface.md R239: between commands the block takes the next command, alone,
and without one it does nothing. -/
def Obligations.IdleUntilCommand : Prop :=
  ∀ s : State, s.phase.takesCommands = true →
    (s.cmds = [] → step s = .next s) ∧
    ∀ (c : HostCmd) (rest : List HostCmd), s.cmds = c :: rest →
      fetch s = .unit ⟨.hostcmd8, [c.code], c.stream⟩ { s with cmds := rest }

/-- 20_memory.md R75: StreamRead(n) on a stream of length L. -/
def Obligations.StreamReadAnswers : Prop :=
  ∀ (n : Nat) (s : State) (st : Stream), s.stream = some st → st.ended = true → st.bytes.length < 2 ^ 64 →
    (s.inPos.toNat + n ≤ st.bytes.length →
      ∃ p t, streamRead n s = .bytes p t ∧ p.length = n ∧ (∀ i, i < n → p[i]? = st.bytes[s.inPos.toNat + i]?) ∧
        t.inPos.toNat = s.inPos.toNat + n ∧ t = { s with inPos := t.inPos }) ∧
    (st.bytes.length < s.inPos.toNat + n →
      ∃ t, streamRead n s = .short t ∧ t.inPos.toNat = st.bytes.length ∧ t = { s with inPos := t.inPos })

/-- 60_exceptions.md R262, 20_memory.md R76 and R77: a unit the stream cannot fill ends the load in CLOSED with
the error of the phase, at the end of the stream; if the stream does not end either, the block is stuck. -/
def Obligations.ShortReadRaisesByPhase : Prop :=
  ∀ (s : State) (sl : Slot) (n : Nat) (st : Stream), nextRead s = some (sl, n) → s.stream = some st →
    st.bytes.length < s.inPos.toNat + n →
    (st.ended = true →
      step s = .next { s with
        inPos := BitVec.ofNat 64 st.bytes.length
        error := ⟨if s.phase = .loadPixel then .truncatedData else .ioError, s.phase, s.pix⟩
        flags := { s.flags with resultValid := false }
        stream := none
        phase := .closed
        resp := some ⟨.fail (if s.phase = .loadPixel then .truncatedData else .ioError), .none⟩ }) ∧
    (st.ended = false → step s = .fault .streamStall)

/-! ### Header and image ID -/

/-- 40_header_capture.md R131, 30_encoding.md R101 and R111: HDR_CAPTURE as a step: the 18 bytes at IN_POS, each
field at its offset, two-byte fields little-endian; with fewer bytes left, IOError in LOAD_HDR and no header
register written. -/
def Obligations.HeaderCaptureStep : Prop :=
  ∀ (s : State) (st : Stream), s.phase = .loadHdr → s.stream = some st →
    let b : Nat → Byte := fun k => st.bytes.getD (s.inPos.toNat + k) 0
    let h : Header :=
      { idLength := b 0, colorMapType := b 1, imageType := b 2, cMapStart := b 4 ++ b 3, cMapLength := b 6 ++ b 5,
        cMapDepth := b 7, xOffset := b 9 ++ b 8, yOffset := b 11 ++ b 10, width := b 13 ++ b 12,
        height := b 15 ++ b 14, pixelDepth := b 16, imageDesc := b 17 }
    (s.inPos.toNat + 18 ≤ st.bytes.length →
      step s = .next { s with inPos := s.inPos + 18, hdr := h, sizes := sizesOf h, phase := .loadId }) ∧
    (st.bytes.length < s.inPos.toNat + 18 → st.ended = true →
      ∃ t, step s = .next t ∧ t.phase = .closed ∧ t.error = ⟨.ioError, .loadHdr, s.pix⟩ ∧ t.hdr = s.hdr ∧
        t.sizes = s.sizes)

/-- 40_header_capture.md R133: the derived sizes are exact, and HDR_CAPTURE writes them, the header registers and
the phase, and nothing else. -/
def Obligations.HdrCaptureWritesExactSizes : Prop :=
  ∀ (h : Header) (s : State), ∃ t, exec (.hdrCapture h) s = .next t ∧ t.hdr = h ∧
    t.sizes.pixelCount.toNat = h.width.toNat * h.height.toNat ∧
    t.sizes.size8.toNat = h.width.toNat * h.height.toNat ∧
    t.sizes.size24.toNat = h.width.toNat * h.height.toNat * 3 ∧
    t.sizes.size32.toNat = h.width.toNat * h.height.toNat * 4 ∧
    t = { s with hdr := h, sizes := t.sizes, phase := .loadId }

/-- 40_header_capture.md R135: ID_CONSUME stores HDR_ID_LENGTH bytes uninterpreted; as an instruction it always
completes, and as a step it takes the bytes at IN_POS. -/
def Obligations.IdConsumeStoresBytes : Prop :=
  (∀ (bytes : List Byte) (s : State),
    exec (.idConsume bytes) s = .next { s with idBuf := bytes, phase := .loadCmap }) ∧
  ∀ (s : State) (st : Stream), s.phase = .loadId → s.stream = some st →
    s.inPos.toNat + s.hdr.idLength.toNat ≤ st.bytes.length →
    ∃ t, step s = .next t ∧ t.idBuf.length = s.hdr.idLength.toNat ∧
      (∀ i, i < s.hdr.idLength.toNat → t.idBuf[i]? = st.bytes[s.inPos.toNat + i]?) ∧
      t = { s with
        inPos := s.inPos + BitVec.ofNat 64 s.hdr.idLength.toNat
        idBuf := t.idBuf
        phase := .loadCmap }

/-! ### Colormap -/

/-- 41_colormap.md R150 and R151, 30_encoding.md R117: no colormap byte is read when colorMapType is 0; an oversized
colormap fails before any entry is read; with IN_POS at entry k, entry k is read and filled while k is one of the
entries declared, and at their end the count is written. (That the size check and the end of CMAP_PHASE are steps
of their own, finer than R308's list, is the model's choice, log entry 1; that IN_POS gives k is an inference, log
entry 10.) -/
def Obligations.ColormapPhaseChecksAndCounts : Prop :=
  ∀ s : State, s.phase = .loadCmap →
    (s.hdr.colorMapType = 0 → step s = .next { s with cmapCount := 0, phase := .loadDispatch }) ∧
    (s.hdr.colorMapType ≠ 0 → 256 < s.hdr.cMapLength.toNat →
      step s = .next { s with
        error := ⟨.cmapSize, .loadCmap, s.pix⟩
        flags := { s.flags with resultValid := false }
        stream := none
        phase := .closed
        resp := some ⟨.fail .cmapSize, .none⟩ }) ∧
    (s.hdr.colorMapType ≠ 0 → s.hdr.cMapLength.toNat ≤ 256 →
      s.inPos.toNat = 18 + s.hdr.idLength.toNat + 3 * s.hdr.cMapLength.toNat →
      ∃ t, step s = .next t ∧ t.cmapCount.toNat = s.hdr.cMapLength.toNat ∧
        t = { s with cmapCount := t.cmapCount, phase := .loadDispatch }) ∧
    (∀ (k : Nat) (st : Stream), s.hdr.colorMapType ≠ 0 → s.hdr.cMapLength.toNat ≤ 256 →
      k < s.hdr.cMapLength.toNat → s.inPos.toNat = 18 + s.hdr.idLength.toNat + 3 * k →
      s.stream = some st → s.inPos.toNat + 3 ≤ st.bytes.length →
      ∃ e : BitVec 24, e.extractLsb' 0 8 = st.bytes.getD s.inPos.toNat 0 ∧
        e.extractLsb' 8 8 = st.bytes.getD (s.inPos.toNat + 1) 0 ∧
        e.extractLsb' 16 8 = st.bytes.getD (s.inPos.toNat + 2) 0 ∧
        step s = .next { s with inPos := s.inPos + 3, cmap := Memory.write s.cmap k e })

/-- 41_colormap.md R152, 10_state.md R46, 30_encoding.md R117: CMAP_FILL writes entry k, [7:0] blue, [15:8] green,
[23:16] red, and nothing else; k is the entry whose bytes end at IN_POS. (For k ≥ 256, which R48 excludes and no
step passes, it is the model's choice, log entry 21.) -/
def Obligations.CmapFillWritesOneEntry : Prop :=
  ∀ (b g r : Byte) (s : State), ∃ (k : Nat) (t : State), exec (.cmapFill b g r) s = .next t ∧
    k = cmapEntryAt (s.inPos - 3) s.hdr ∧
    (∀ j : Nat, s.inPos.toNat = 18 + s.hdr.idLength.toNat + 3 * (j + 1) → k = j) ∧
    (∃ e, Memory.read t.cmap k = some e ∧ e.extractLsb' 0 8 = b ∧ e.extractLsb' 8 8 = g ∧
      e.extractLsb' 16 8 = r) ∧
    (∀ j, j ≠ k → Memory.read t.cmap j = Memory.read s.cmap j) ∧
    t = { s with cmap := t.cmap }

/-- 41_colormap.md R155, 44_unpack_engines.md R219, 43_pixel_dispatch.md R194: CMAP_LOOKUP, EMIT_IDX and the loop's
tail. An index at or above CMAP_COUNT raises IndexOutOfRangeError before any write; an index below it writes the
pixel's bytes and no others, and the loop goes on. (R155's CMAP_LOOKUP itself only returns a triple, and R210's
UNPACK8 only an index and no error: that `exec` of either runs the rest of the iteration, which R308 lets be one
atomic step, is the model's choice, log entry 1.) -/
def Obligations.CmapLookupEmitsPixel : Prop :=
  ∀ (idx : Byte) (s : State), ∀ i ∈ [Instr.cmapLookup idx, .unpack8 idx],
    (s.cmapCount.toNat ≤ idx.toNat →
      exec i s = .next { s with
        error := ⟨.indexOutOfRange, s.phase, s.pix⟩
        flags := { s.flags with resultValid := false }
        stream := none
        phase := .closed
        resp := some ⟨.fail .indexOutOfRange, .none⟩ }) ∧
    (idx.toNat < s.cmapCount.toNat → ∃ t, exec i s = .next t ∧
      (∀ a, Memory.read t.out.idx a = if a = s.pix.toNat then some idx else Memory.read s.out.idx a) ∧
      (∀ a, Memory.read t.out.rgb a =
        if a = 3 * s.pix.toNat then some ((cmapRead idx.toNat s).extractLsb' 16 8)
        else if a = 3 * s.pix.toNat + 1 then some ((cmapRead idx.toNat s).extractLsb' 8 8)
        else if a = 3 * s.pix.toNat + 2 then some ((cmapRead idx.toNat s).extractLsb' 0 8)
        else Memory.read s.out.rgb a) ∧
      (∀ a, Memory.read t.out.argb a =
        if a = 4 * s.pix.toNat then some 255
        else if a = 4 * s.pix.toNat + 1 then some ((cmapRead idx.toNat s).extractLsb' 16 8)
        else if a = 4 * s.pix.toNat + 2 then some ((cmapRead idx.toNat s).extractLsb' 8 8)
        else if a = 4 * s.pix.toNat + 3 then some ((cmapRead idx.toNat s).extractLsb' 0 8)
        else Memory.read s.out.argb a) ∧
      t = { s with
        out := t.out
        pix := s.pix + 1
        pkt := if s.strategy.isRle then { s.pkt with remain := s.pkt.remain - 1 } else s.pkt })

/-! ### Payloads -/

/-- 44_unpack_engines.md R210, 41_colormap.md R155 and R156: UNPACK8 hands the index to the lookup, in the same
step: as an instruction, and in LOAD_PIXEL of an indexed strategy, where the index is the next stream byte or,
inside a RUN packet, PKT_PAYLOAD[7:0]. (That UNPACK8 and CMAP_LOOKUP are one step of the model: log entry 1.) -/
def Obligations.Unpack8HandsIndexToLookup : Prop :=
  (∀ (idx : Byte) (s : State), exec (.unpack8 idx) s = exec (.cmapLookup idx) s) ∧
  ∀ s : State, s.phase = .loadPixel → s.strategy.isIndexed = true → s.pix.toNat < s.sizes.pixelCount.toNat →
    (∀ st : Stream, (s.strategy.isRle = true → s.pkt.remain ≠ 0 ∧ s.pkt.enc = false) → s.stream = some st →
      s.inPos.toNat + 1 ≤ st.bytes.length →
      step s = exec (.cmapLookup (st.bytes.getD s.inPos.toNat 0)) { s with inPos := s.inPos + 1 }) ∧
    (s.strategy.isRle = true → s.pkt.remain ≠ 0 → s.pkt.enc = true →
      step s = exec (.cmapLookup (s.pkt.payload.extractLsb' 0 8)) s)

/-- 44_unpack_engines.md R211, R220: UNPACK24 with EMIT_TC24 writes the pixel's RGB and ARGB bytes, alpha 255, and
no others; OUT_IDX is not written. (That its `exec` runs EMIT and the loop's tail of 43_pixel_dispatch.md R194 too,
one iteration in one step of R308, is the model's choice, log entry 1.) -/
def Obligations.Unpack24EmitsPixel : Prop :=
  ∀ (b g r : Byte) (s : State), ∃ t, exec (.unpack24 b g r) s = .next t ∧
    (∀ a, Memory.read t.out.rgb a =
      if a = 3 * s.pix.toNat then some r else if a = 3 * s.pix.toNat + 1 then some g
      else if a = 3 * s.pix.toNat + 2 then some b else Memory.read s.out.rgb a) ∧
    (∀ a, Memory.read t.out.argb a =
      if a = 4 * s.pix.toNat then some 255 else if a = 4 * s.pix.toNat + 1 then some r
      else if a = 4 * s.pix.toNat + 2 then some g else if a = 4 * s.pix.toNat + 3 then some b
      else Memory.read s.out.argb a) ∧
    t.out.idx = s.out.idx ∧
    t = { s with
      out := t.out
      pix := s.pix + 1
      pkt := if s.strategy.isRle then { s.pkt with remain := s.pkt.remain - 1 } else s.pkt }

/-- 44_unpack_engines.md R212, R221: UNPACK32 with EMIT_TC32, the alpha copied from the payload. (That its `exec`
runs EMIT and the loop's tail of 43_pixel_dispatch.md R194 too, one iteration in one step of R308, is the model's
choice, log entry 1.) -/
def Obligations.Unpack32EmitsPixel : Prop :=
  ∀ (b g r alpha : Byte) (s : State), ∃ t, exec (.unpack32 b g r alpha) s = .next t ∧
    (∀ a, Memory.read t.out.rgb a =
      if a = 3 * s.pix.toNat then some r else if a = 3 * s.pix.toNat + 1 then some g
      else if a = 3 * s.pix.toNat + 2 then some b else Memory.read s.out.rgb a) ∧
    (∀ a, Memory.read t.out.argb a =
      if a = 4 * s.pix.toNat then some alpha else if a = 4 * s.pix.toNat + 1 then some r
      else if a = 4 * s.pix.toNat + 2 then some g else if a = 4 * s.pix.toNat + 3 then some b
      else Memory.read s.out.argb a) ∧
    t.out.idx = s.out.idx ∧
    t = { s with
      out := t.out
      pix := s.pix + 1
      pkt := if s.strategy.isRle then { s.pkt with remain := s.pkt.remain - 1 } else s.pkt }

/-! ### Packets -/

/-- 42_rle_packet.md R173: RAW_PKT opens a packet of N+1 literals and leaves PKT_PAYLOAD. -/
def Obligations.RawPacketOpens : Prop :=
  ∀ (n : BitVec 7) (s : State), ∃ t, exec (.rawPkt n) s = .next t ∧ t.pkt.len.toNat = n.toNat + 1 ∧
    t = { s with pkt := ⟨false, t.pkt.len, t.pkt.len, s.pkt.payload⟩ }

/-- 42_rle_packet.md R174: RUN_PKT opens a packet of N+1 repeats and latches the one payload at IN_POS, packed as
`PayloadPacksLittleEndian` says. -/
def Obligations.RunPacketLatchesPayload : Prop :=
  ∀ (n : BitVec 7) (s : State) (sl : Slot) (p : Nat) (st : Stream), s.strategy.payload = some (sl, p) →
    s.stream = some st → s.inPos.toNat + p ≤ st.bytes.length →
    ∃ t, exec (.runPkt n) s = .next t ∧ t.pkt.len.toNat = n.toNat + 1 ∧
      t = { s with
        inPos := s.inPos + BitVec.ofNat 64 p
        pkt := ⟨true, t.pkt.len, t.pkt.len, lePack ((st.bytes.drop s.inPos.toNat).take p)⟩ }

/-- 42_rle_packet.md R172: PKT_FETCH, which is a step of its own in the model (log entry 1): the header byte, and
for a RUN packet its payload; a short RUN payload fails with the header registers written and PKT_PAYLOAD kept. A
short header byte is in `ShortReadRaisesByPhase`. -/
def Obligations.PacketFetchStep : Prop :=
  ∀ (s : State) (sl : Slot) (p : Nat) (st : Stream), s.phase = .loadPixel → s.strategy.isRle = true →
    s.strategy.payload = some (sl, p) → s.pix.toNat < s.sizes.pixelCount.toNat →
    s.pkt.remain = 0 → s.stream = some st → st.bytes.length < 2 ^ 64 → s.inPos.toNat + 1 ≤ st.bytes.length →
    let b : Byte := st.bytes.getD s.inPos.toNat 0
    let len : BitVec 8 := (b &&& 0x7F) + 1
    (b &&& 0x80 = 0 → step s = .next { s with inPos := s.inPos + 1, pkt := ⟨false, len, len, s.pkt.payload⟩ }) ∧
    (b &&& 0x80 ≠ 0 → s.inPos.toNat + 1 + p ≤ st.bytes.length →
      step s = .next { s with
        inPos := s.inPos + 1 + BitVec.ofNat 64 p
        pkt := ⟨true, len, len, lePack ((st.bytes.drop (s.inPos.toNat + 1)).take p)⟩ }) ∧
    (b &&& 0x80 ≠ 0 → st.bytes.length < s.inPos.toNat + 1 + p → st.ended = true →
      step s = .next { s with
        inPos := BitVec.ofNat 64 st.bytes.length
        pkt := ⟨true, len, len, s.pkt.payload⟩
        error := ⟨.truncatedData, .loadPixel, s.pix⟩
        flags := { s.flags with resultValid := false }
        stream := none
        phase := .closed
        resp := some ⟨.fail .truncatedData, .none⟩ })

/-- 42_rle_packet.md R175, 43_pixel_dispatch.md R196: where the payload of a pixel comes from. (Reading the packet
header is a step before the payload's, log entry 1.) -/
def Obligations.PayloadSource : Prop :=
  ∀ (s : State) (sl : Slot) (p : Nat), s.phase = .loadPixel → s.strategy.payload = some (sl, p) →
    s.pix.toNat < s.sizes.pixelCount.toNat →
    (s.strategy.isRle = true → s.pkt.remain = 0 → fetch s = fetchStream .rlehdr8 1 s) ∧
    (s.strategy.isRle = true → s.pkt.remain ≠ 0 → s.pkt.enc = true →
      ∃ bs : List Byte, fetch s = .unit (plainWord sl bs) s ∧ bs.length = p ∧
        ∀ i, i < p → bs[i]? = some (s.pkt.payload.extractLsb' (8 * i) 8)) ∧
    (s.strategy.isRle = true → s.pkt.remain ≠ 0 → s.pkt.enc = false → fetch s = fetchStream sl p s) ∧
    (s.strategy.isRle = false → fetch s = fetchStream sl p s)

/-- 42_rle_packet.md R174, R176 and R177: the pixels of a RUN packet. From a state with an open RUN packet, the
next k pixels, as many as the packet and the image have, are each produced from the latched payload; no stream
byte is read, every other byte of the buffers keeps what it held, and PKT_REMAIN goes down by k. Where the
image ends before the packet, the next step ends the load with PKT_OVERRUN set, and reads and writes no more.
The step count is the model's (log entry 1). -/
def Obligations.RunPacketRepeatsItsPayload : Prop :=
  ∀ (s : State) (k : Nat), s.phase = .loadPixel → s.strategy.isRle = true →
    s.pkt.enc = true → k ≤ s.pkt.remain.toNat → s.pix.toNat + k ≤ s.sizes.pixelCount.toNat →
    (s.strategy.isIndexed = true → (s.pkt.payload.extractLsb' 0 8).toNat < s.cmapCount.toNat) →
    ∃ t : State, Host.Core.run Sys2Proof.core k s = .next t ∧
      t.pix.toNat = s.pix.toNat + k ∧ t.pkt.remain.toNat = s.pkt.remain.toNat - k ∧
      (∀ j, j < k → pixelIs s t (s.pix.toNat + j) s.pkt.payload) ∧ otherPixelsKept s.pix.toNat k s.out t.out ∧
      (s.strategy.isIndexed = false → t.out.idx = s.out.idx) ∧
      t = { s with out := t.out, pix := t.pix, pkt := { s.pkt with remain := t.pkt.remain } } ∧
      (s.pix.toNat + k = s.sizes.pixelCount.toNat → k < s.pkt.remain.toNat →
        ∃ u : State, step t = .next u ∧ u.phase = .decoded ∧ u.flags.pktOverrun = true ∧
          u.pkt.remain.toNat = s.pkt.remain.toNat - k ∧ u.inPos = s.inPos ∧ u.out = t.out)

/-- 42_rle_packet.md R173 and R176, 43_pixel_dispatch.md R196: k literal pixels, of a RAW packet with at least k
pixels left or of a raw strategy: each takes the next P bytes of the stream, in order; every other byte of the
buffers keeps what it held. The step count is the model's (log entry 1). -/
def Obligations.LiteralPixelsFollowTheStream : Prop :=
  ∀ (s : State) (k : Nat) (sl : Slot) (p : Nat) (st : Stream), s.phase = .loadPixel →
    s.strategy.payload = some (sl, p) →
    (s.strategy.isRle = true → s.pkt.enc = false ∧ k ≤ s.pkt.remain.toNat) →
    s.pix.toNat + k ≤ s.sizes.pixelCount.toNat → s.stream = some st → st.bytes.length < 2 ^ 64 →
    s.inPos.toNat + k * p ≤ st.bytes.length →
    (s.strategy.isIndexed = true →
      ∀ j, j < k → (st.bytes.getD (s.inPos.toNat + j) 0).toNat < s.cmapCount.toNat) →
    ∃ t : State, Host.Core.run Sys2Proof.core k s = .next t ∧
      t.pix.toNat = s.pix.toNat + k ∧ t.inPos.toNat = s.inPos.toNat + k * p ∧
      (∀ j, j < k →
        pixelIs s t (s.pix.toNat + j) (lePack ((st.bytes.drop (s.inPos.toNat + j * p)).take p))) ∧
      otherPixelsKept s.pix.toNat k s.out t.out ∧
      (s.strategy.isIndexed = false → t.out.idx = s.out.idx) ∧
      t.pkt.remain.toNat = (if s.strategy.isRle then s.pkt.remain.toNat - k else s.pkt.remain.toNat) ∧
      t = { s with out := t.out, pix := t.pix, inPos := t.inPos, pkt := { s.pkt with remain := t.pkt.remain } }

/-! ### Dispatch and the end of the loop -/

/-- 43_pixel_dispatch.md R190 to R193, 30_encoding.md R114: LOAD_DISPATCH as a step: the six pairs of the table,
with the capacity check after the strategy is written, and every other pair. -/
def Obligations.DispatchSelectsStrategy : Prop :=
  ∀ s : State, s.phase = .loadDispatch →
    (∀ row ∈ ([(1, 8, .idxRaw8, true), (2, 24, .tcRaw24, false), (2, 32, .tcRaw32, false), (9, 8, .idxRle8, true),
        (9, 24, .tcRle24, false), (9, 32, .tcRle32, false)] : List (Byte × Byte × Strategy × Bool)),
      s.hdr.imageType = row.1 → s.hdr.pixelDepth = row.2.1 →
      (s.sizes.pixelCount.toNat ≤ s.maxPixelCount →
        step s = .next { s with
          strategy := row.2.2.1
          flags := { s.flags with idxPresent := row.2.2.2 }
          pix := 0
          pkt := ⟨false, 0, 0, 0⟩
          phase := .loadPixel }) ∧
      (s.maxPixelCount < s.sizes.pixelCount.toNat →
        step s = .next { s with
          strategy := row.2.2.1
          flags := { s.flags with resultValid := false, idxPresent := row.2.2.2 }
          error := ⟨.capacity, .loadDispatch, s.pix⟩
          stream := none
          phase := .closed
          resp := some ⟨.fail .capacity, .none⟩ })) ∧
    ((s.hdr.imageType, s.hdr.pixelDepth) ∉
        ([(1, 8), (2, 24), (2, 32), (9, 8), (9, 24), (9, 32)] : List (Byte × Byte)) →
      step s = .next { s with
        error := ⟨.unsupportedFormat, .loadDispatch, s.pix⟩
        flags := { s.flags with resultValid := false }
        stream := none
        phase := .closed
        resp := some ⟨.fail .unsupportedFormat, .none⟩ })

/-- 43_pixel_dispatch.md R190, 44_unpack_engines.md R213 to R218: each of the six strategy instructions selects its
strategy and enters LOAD_PIXEL when the image fits, and fails with CapacityError when it does not. -/
def Obligations.StrategyInstructionsEnterPixelLoop : Prop :=
  ∀ (s : State), ∀ row ∈ ([(.idxRaw8, .idxRaw8, true), (.tcRaw24, .tcRaw24, false), (.tcRaw32, .tcRaw32, false),
      (.idxRle8, .idxRle8, true), (.tcRle24, .tcRle24, false), (.tcRle32, .tcRle32, false)] :
      List (Instr × Strategy × Bool)),
    (s.sizes.pixelCount.toNat ≤ s.maxPixelCount →
      exec row.1 s = .next { s with
        strategy := row.2.1
        flags := { s.flags with idxPresent := row.2.2 }
        pix := 0
        pkt := ⟨false, 0, 0, 0⟩
        phase := .loadPixel }) ∧
    (s.maxPixelCount < s.sizes.pixelCount.toNat →
      ∃ t, exec row.1 s = .next t ∧ t.phase = .closed ∧ t.error = ⟨.capacity, s.phase, s.pix⟩ ∧
        t.strategy = row.2.1 ∧ t.out = s.out)

/-- 43_pixel_dispatch.md R193: UNSUPPORTED takes the failure path; STRATEGY, IDX_PRESENT and every buffer keep their
contents. -/
def Obligations.UnsupportedKeyFails : Prop :=
  ∀ (key : Half) (s : State),
    exec (.unsupported key) s = .next { s with
      error := ⟨.unsupportedFormat, s.phase, s.pix⟩
      flags := { s.flags with resultValid := false }
      stream := none
      phase := .closed
      resp := some ⟨.fail .unsupportedFormat, .none⟩ }

/-- 43_pixel_dispatch.md R197, 42_rle_packet.md R177: when every pixel is produced the load succeeds; a packet with
pixels left is flagged, and nothing more of it is read or written. -/
def Obligations.LoopEndEntersDecoded : Prop :=
  ∀ s : State, s.phase = .loadPixel → s.strategy ≠ .none → s.pix = s.sizes.pixelCount →
    step s = .next { s with
      flags := { s.flags with
        resultValid := true, pktOverrun := if s.pkt.remain = 0 then s.flags.pktOverrun else true }
      stream := none
      phase := .decoded
      resp := some ⟨.ok, .none⟩ }

/-- 43_pixel_dispatch.md R199: a zero-sized image with a supported key decodes: two steps from LOAD_DISPATCH, no
byte read, no byte written, and the three pixel accessors return the empty sequence. -/
def Obligations.ZeroSizedImageDecodes : Prop :=
  ∀ s : State, s.phase = .loadDispatch → s.sizes = ⟨0, 0, 0, 0⟩ →
    (s.hdr.imageType, s.hdr.pixelDepth) ∈
        ([(1, 8), (2, 24), (2, 32), (9, 8), (9, 24), (9, 32)] : List (Byte × Byte)) →
    ∃ t : State, Host.Core.run Sys2Proof.core 2 s = .next t ∧ t.phase = .decoded ∧ t.flags.resultValid = true ∧
      t.inPos = s.inPos ∧ t.out = s.out ∧
      ∀ i ∈ [Instr.cmdReadIdx, Instr.cmdReadRgb24, Instr.cmdReadArgb32],
        exec i t = .next { t with resp := some ⟨.ok, .bytes []⟩ }

/-! ### Host commands -/

/-- 45_host_interface.md R240, 70_reset_and_hazards.md R290: RESET is the power-on reset, whatever the state; the
host's queue and the parameter MAX_PIXEL_COUNT are not the block's, and the memories hold unspecified contents
of their own (log entry 5). -/
def Obligations.ResetCommandResets : Prop :=
  ∀ s : State, exec .cmdReset s = .next { State.reset with
    cmds := s.cmds
    maxPixelCount := s.maxPixelCount
    epoch := s.epoch + 1
    resp := some ⟨.ok, .none⟩ }

/-- 10_state.md R53, 70_reset_and_hazards.md R291: the state after reset. Nothing is written in the memories, whose
contents are unspecified. -/
def Obligations.ResetValues : Prop :=
  State.reset.phase = .unopened ∧ State.reset.hdr = zeroHeader ∧ State.reset.sizes = ⟨0, 0, 0, 0⟩ ∧
  State.reset.cmapCount = 0 ∧ State.reset.strategy = .none ∧ State.reset.pix = 0 ∧
  State.reset.pkt = ⟨false, 0, 0, 0⟩ ∧ State.reset.inPos = 0 ∧ State.reset.flags = ⟨false, false, false⟩ ∧
  State.reset.error = ⟨.none, .unopened, 0⟩ ∧ State.reset.refused = false ∧ State.reset.idBuf = [] ∧
  State.reset.stream = none ∧ State.reset.cmap = [] ∧ State.reset.out = ⟨[], [], []⟩

/-- 45_host_interface.md R241 and R242: OPEN. It is accepted in UNOPENED with ERR = NONE alone; a failed OPEN leaves
PHASE, and with it no result and no stream. -/
def Obligations.OpenAttachesStream : Prop :=
  ∀ s : State,
    (s.phase = .unopened → s.error.code = .none →
      (∀ st : Stream, exec (.cmdOpen (some st)) s =
        .next { s with stream := some st, inPos := 0, phase := .opened, resp := some ⟨.ok, .none⟩ }) ∧
      exec (.cmdOpen none) s = .next { s with
        error := ⟨.ioError, .unopened, s.error.pix⟩, resp := some ⟨.fail .ioError, .none⟩ }) ∧
    (s.phase ≠ .unopened ∨ s.error.code ≠ .none → ∀ o : Option Stream,
      exec (.cmdOpen o) s = .next { s with refused := true, resp := some ⟨.refused, .none⟩ }) ∧
    (Inv s → s.phase = .unopened → s.flags.resultValid = false ∧ s.stream = none)

/-- 45_host_interface.md R243 and R249: LOAD is accepted in OPENED, where the load begins at its first phase, and
refused in every other phase. -/
def Obligations.LoadBeginsInOpened : Prop :=
  ∀ s : State,
    (s.phase = .opened → exec .cmdLoad s = .next { s with phase := .loadHdr, resp := none }) ∧
    (s.phase ≠ .opened → exec .cmdLoad s = .next { s with refused := true, resp := some ⟨.refused, .none⟩ })

/-- 45_host_interface.md R245: READ_HEADER, and its refusal outside DECODED. -/
def Obligations.ReadHeaderReturnsRegisters : Prop :=
  ∀ s : State,
    (s.phase = .decoded → s.flags.resultValid = true →
      exec .cmdReadHeader s = .next { s with resp := some ⟨.ok, .header s.hdr s.sizes s.idBuf⟩ }) ∧
    (s.phase ≠ .decoded →
      exec .cmdReadHeader s = .next { s with refused := true, resp := some ⟨.refused, .none⟩ })

/-- 45_host_interface.md R246: READ_CMAP returns the CMAP_COUNT entries in order, as (blue, green, red), and is
refused outside DECODED. (A CMAP_COUNT above 256 is no value of R36; its entries from 256 on are the model's
choice, log entry 21.) -/
def Obligations.ReadCmapReturnsTriples : Prop :=
  ∀ s : State,
    (s.phase = .decoded → s.flags.resultValid = true →
      ∃ l : List (Byte × Byte × Byte), exec .cmdReadCmap s = .next { s with resp := some ⟨.ok, .colors l⟩ } ∧
        l.length = s.cmapCount.toNat ∧
        ∀ (k : Nat) (e : BitVec 24), k < s.cmapCount.toNat → Memory.read s.cmap k = some e →
          l[k]? = some (e.extractLsb' 0 8, e.extractLsb' 8 8, e.extractLsb' 16 8)) ∧
    (s.phase ≠ .decoded →
      exec .cmdReadCmap s = .next { s with refused := true, resp := some ⟨.refused, .none⟩ })

/-- 45_host_interface.md R247: READ_IDX, READ_RGB24 and READ_ARGB32 return the whole buffers, in address order;
READ_IDX is empty when IDX_PRESENT is 0; they are refused outside DECODED. -/
def Obligations.ReadPixelsReturnBuffers : Prop :=
  ∀ s : State,
    (s.phase = .decoded → s.flags.resultValid = true →
      (∃ l : List Byte, exec .cmdReadIdx s = .next { s with resp := some ⟨.ok, .bytes l⟩ } ∧
        (s.flags.idxPresent = false → l = []) ∧
        (s.flags.idxPresent = true → l.length = s.sizes.size8.toNat ∧
          ∀ (a : Nat) (v : Byte), a < s.sizes.size8.toNat → Memory.read s.out.idx a = some v → l[a]? = some v)) ∧
      (∃ l : List Byte, exec .cmdReadRgb24 s = .next { s with resp := some ⟨.ok, .bytes l⟩ } ∧
        l.length = s.sizes.size24.toNat ∧
        ∀ (a : Nat) (v : Byte), a < s.sizes.size24.toNat → Memory.read s.out.rgb a = some v → l[a]? = some v) ∧
      (∃ l : List Byte, exec .cmdReadArgb32 s = .next { s with resp := some ⟨.ok, .bytes l⟩ } ∧
        l.length = s.sizes.size32.toNat ∧
        ∀ (a : Nat) (v : Byte), a < s.sizes.size32.toNat → Memory.read s.out.argb a = some v → l[a]? = some v)) ∧
    (s.phase ≠ .decoded → ∀ i ∈ [Instr.cmdReadIdx, Instr.cmdReadRgb24, Instr.cmdReadArgb32],
      exec i s = .next { s with refused := true, resp := some ⟨.refused, .none⟩ })

/-- 45_host_interface.md R248, 10_state.md R32 and R37, 60_exceptions.md R260: READ_STATUS in every phase, with the
codes of the phases, strategies and errors. -/
def Obligations.ReadStatusReturnsRegisters : Prop :=
  ∀ s : State, ∃ st : Status, exec .cmdReadStatus s = .next { s with resp := some ⟨.ok, .status st⟩ } ∧
    st = { phase := st.phase, strategy := st.strategy, cmapCount := s.cmapCount, pix := s.pix, pktEnc := s.pkt.enc,
           pktLen := s.pkt.len, pktRemain := s.pkt.remain, pktPayload := s.pkt.payload, inPos := s.inPos,
           resultValid := s.flags.resultValid, idxPresent := s.flags.idxPresent,
           pktOverrun := s.flags.pktOverrun, err := st.err, errPhase := st.errPhase, errPix := s.error.pix,
           refused := s.refused } ∧
    (s.phase, st.phase.toNat) ∈ [(Phase.unopened, 0), (.opened, 1), (.loadHdr, 2), (.loadId, 3), (.loadCmap, 4),
      (.loadDispatch, 5), (.loadPixel, 6), (.decoded, 7), (.closed, 8)] ∧
    (s.error.phase, st.errPhase.toNat) ∈ [(Phase.unopened, 0), (.opened, 1), (.loadHdr, 2), (.loadId, 3),
      (.loadCmap, 4), (.loadDispatch, 5), (.loadPixel, 6), (.decoded, 7), (.closed, 8)] ∧
    (s.strategy, st.strategy.toNat) ∈ [(Strategy.none, 0), (.idxRaw8, 1), (.tcRaw24, 2), (.tcRaw32, 3),
      (.idxRle8, 4), (.tcRle24, 5), (.tcRle32, 6)] ∧
    (s.error.code, st.err.toNat) ∈ [(Err.none, 0), (.ioError, 1), (.unsupportedFormat, 2), (.truncatedData, 3),
      (.indexOutOfRange, 4), (.cmapSize, 5), (.capacity, 6)]

/-- 45_host_interface.md R244: a result accessor outside DECODED is refused and returns no data; in DECODED, which
implies RESULT_VALID, it returns the same data however often it is repeated, and changes nothing else. -/
def Obligations.AccessorsAreReadOnly : Prop :=
  ∀ (s : State), ∀ i ∈ [Instr.cmdReadHeader, .cmdReadCmap, .cmdReadIdx, .cmdReadRgb24, .cmdReadArgb32],
    (s.phase ≠ .decoded → exec i s = .next { s with refused := true, resp := some ⟨.refused, .none⟩ }) ∧
    (s.phase = .decoded → s.flags.resultValid = true →
      ∃ t, exec i s = .next t ∧ t = { s with resp := t.resp } ∧ exec i t = .next t) ∧
    (Inv s → s.phase = .decoded → s.flags.resultValid = true)

/-! ### The whole machine -/

/-- 60_exceptions.md R269 and R270: in CLOSED and in DECODED only RESET changes the block; every other command
leaves all but the port and the refusal mark as they are. -/
def Obligations.TerminalPhasesHoldUntilReset : Prop :=
  ∀ s t : State, s.phase = .closed ∨ s.phase = .decoded → step s = .next t →
    resetPending s ∨ t = { s with cmds := t.cmds, refused := t.refused, resp := t.resp }

/-- 40_header_capture.md R134: no phase but LOAD_HDR writes the header and size registers, until reset. -/
def Obligations.HeaderKeptUntilReset : Prop :=
  ∀ s t : State, step s = .next t → s.phase ≠ .loadHdr →
    resetPending s ∨ (t.hdr = s.hdr ∧ t.sizes = s.sizes)

/-- 43_pixel_dispatch.md R201: STRATEGY changes only in LOAD_DISPATCH and at reset, and in LOAD_PIXEL it is never
NONE. -/
def Obligations.StrategyChangesOnlyInDispatch : Prop :=
  (∀ s t : State, step s = .next t → s.phase ≠ .loadDispatch → resetPending s ∨ t.strategy = s.strategy) ∧
  ∀ s : State, Inv s → s.phase = .loadPixel → s.strategy ≠ .none

/-- 10_state.md R47, 41_colormap.md R158: the colormap changes only in LOAD_CMAP and at reset, and a lookup in
LOAD_PIXEL reads an entry that was filled. -/
def Obligations.ColormapFilledBeforeLookup : Prop :=
  (∀ s t : State, step s = .next t → s.phase ≠ .loadCmap →
    resetPending s ∨ (t.cmap = s.cmap ∧ t.cmapCount = s.cmapCount)) ∧
  ∀ (s : State) (idx : Byte), Inv s → s.phase = .loadPixel → idx.toNat < s.cmapCount.toNat →
    ∃ e, Memory.read s.cmap idx.toNat = some e ∧ cmapRead idx.toNat s = e

/-- 10_state.md R38: IN_POS only increases, resets apart. -/
def Obligations.PositionOnlyIncreases : Prop :=
  ∀ s t : State, Inv s → step s = .next t → resetPending s ∨ s.inPos.toNat ≤ t.inPos.toNat

/-- 20_memory.md R90, 43_pixel_dispatch.md R197, 60_exceptions.md R266: TGADEC never writes the stream; a load
keeps it attached until it ends. -/
def Obligations.StreamKeptWhileLoading : Prop :=
  ∀ s t : State, s.phase.loading = true → step s = .next t →
    t.stream = s.stream ∨ (t.stream = none ∧ (t.phase = .decoded ∨ t.phase = .closed))

/-- 45_host_interface.md R239: LOAD is one command: no command is taken or refused while it runs; between commands
one is taken at a time. -/
def Obligations.CommandsWaitForTheLoad : Prop :=
  ∀ s t : State, step s = .next t →
    (s.phase.loading = true → t.cmds = s.cmds ∧ t.refused = s.refused) ∧
    (s.phase.loading = false → t.cmds = s.cmds.tail)

/-- 10_state.md R45: REFUSED is sticky until reset, and only a refused command sets it. -/
def Obligations.RefusedIsSticky : Prop :=
  ∀ s t : State, step s = .next t →
    (s.refused = true → resetPending s ∨ t.refused = true) ∧
    (s.refused = false → t.refused = true → t.resp = some ⟨.refused, .none⟩)

/-- 20_memory.md R87, 60_exceptions.md R264: outputs change only in LOAD_PIXEL and at reset, and a step that fails
writes none. -/
def Obligations.OutputsChangeOnlyInLoadPixel : Prop :=
  ∀ s t : State, step s = .next t →
    (s.phase ≠ .loadPixel → resetPending s ∨ t.out = s.out) ∧
    (s.phase = .loadPixel → t.phase = .closed → t.out = s.out ∧ t.pix = s.pix)

/-- 10_state.md R32: the phases follow the order of the load, without cycles or retries. -/
def Obligations.PhasesFollowTheLoadOrder : Prop :=
  ∀ s t : State, step s = .next t →
    (resetPending s ∧ t.phase = .unopened) ∨ t.phase ∈ s.phase.successors

/-- 40_header_capture.md R132, 41_colormap.md R154, 42_rle_packet.md R179, 30_encoding.md R115: after the header is
captured, the load does not depend on cMapStart, cMapDepth, the offsets, the descriptor, nor on the width and
height registers themselves: a run with other values there is the same run. -/
def Obligations.UninterpretedFieldsChangeNothing : Prop :=
  ∀ (s : State) (start x y w h : Half) (depth desc : Byte), s.phase.loading = true → s.phase ≠ .loadHdr →
    let f : State → State := fun t => { t with
      hdr := { t.hdr with
        cMapStart := start, cMapDepth := depth, xOffset := x, yOffset := y, width := w, height := h,
        imageDesc := desc } }
    step (f s) =
      match step s with
      | .next t => .next (f t)
      | .fault r => .fault r
      | .refused r => .refused r

/-! ### Invariants -/

/-- The invariant of every run is kept by every step (its parts cite their rules in Safety.lean). -/
def Obligations.StepKeepsInvariant : Prop :=
  ∀ s t : State, Inv s → step s = .next t → Inv t

/-- The state after reset meets the invariant. -/
def Obligations.ResetMeetsInvariant : Prop := Inv State.reset

/-- Every step keeps the canonical form of the four memories, in any state. -/
def Obligations.StepKeepsMemoriesCanonical : Prop :=
  ∀ s t : State, step s = .next t →
    Memory.wf s.cmap = true ∧ Memory.wf s.out.idx = true ∧ Memory.wf s.out.rgb = true ∧
      Memory.wf s.out.argb = true →
    Memory.wf t.cmap = true ∧ Memory.wf t.out.idx = true ∧ Memory.wf t.out.rgb = true ∧
      Memory.wf t.out.argb = true

/-- 44_unpack_engines.md R225, 20_memory.md R82: in DECODED exactly the bytes of the w*h pixels are written, and the
accessors return buffers of exactly these lengths. -/
def Obligations.DecodedImageIsComplete : Prop :=
  ∀ s : State, Inv s → s.phase = .decoded →
    let n := s.hdr.width.toNat * s.hdr.height.toNat
    (∀ a, (Memory.read s.out.rgb a).isSome = true ↔ a < 3 * n) ∧
    (∀ a, (Memory.read s.out.argb a).isSome = true ↔ a < 4 * n) ∧
    (∀ a, (Memory.read s.out.idx a).isSome = true ↔ s.flags.idxPresent = true ∧ a < n) ∧
    (∃ l : List Byte, exec .cmdReadRgb24 s = .next { s with resp := some ⟨.ok, .bytes l⟩ } ∧ l.length = 3 * n) ∧
    (∃ l : List Byte, exec .cmdReadArgb32 s = .next { s with resp := some ⟨.ok, .bytes l⟩ } ∧ l.length = 4 * n) ∧
    ∃ l : List Byte, exec .cmdReadIdx s = .next { s with resp := some ⟨.ok, .bytes l⟩ } ∧
      l.length = if s.flags.idxPresent then n else 0

/-- 60_exceptions.md R267: after a failed load exactly the pixels before ERR_PIX were written. -/
def Obligations.FailedLoadWroteEarlierPixels : Prop :=
  ∀ s : State, Inv s → s.phase = .closed →
    s.error.code ≠ .none ∧ s.flags.resultValid = false ∧
    (∀ a, (Memory.read s.out.rgb a).isSome = true ↔ a < 3 * s.error.pix.toNat) ∧
    (∀ a, (Memory.read s.out.argb a).isSome = true ↔ a < 4 * s.error.pix.toNat) ∧
    (∀ a, (Memory.read s.out.idx a).isSome = true ↔ s.flags.idxPresent = true ∧ a < s.error.pix.toNat)

/-- 20_memory.md R77, 60_exceptions.md R272: in a state of the invariant the only stop is a stalled stream; every
error of R260 is a next state. -/
def Obligations.OnlyAStalledStreamStops : Prop :=
  ∀ s : State, Inv s →
    (∃ t, step s = .next t) ∨
      (step s = .fault .streamStall ∧ s.phase.loading = true ∧ ∃ st, s.stream = some st ∧ st.ended = false)

/-- 43_pixel_dispatch.md R202: a load on a finite stream ends in DECODED or CLOSED, within a number of steps the
state bounds. (The bound counts the model's steps, log entries 1 and 14.) -/
def Obligations.EveryLoadEnds : Prop :=
  ∀ (s : State) (st : Stream), s.phase.loading = true → s.stream = some st → st.ended = true →
    (s.phase = .loadPixel → s.strategy ≠ .none) →
    ∃ (k : Nat) (t : State), k ≤ loadMeasure s ∧ Host.Core.run Sys2Proof.core k s = .next t ∧
      (t.phase = .decoded ∨ t.phase = .closed)

/-- 10_state.md R30: the block holds its record and nothing else. In a state of a run, what a step does to the
record, to the stream, the parameter and the pending commands is determined by these alone: the last response
and the counter of the free values (log entries 2 and 5), the other two fields of the model's state, play no
part. -/
def Obligations.RecordDeterminesTheStep : Prop :=
  ∀ s s' t : State, Inv s → s'.toBlockState = s.toBlockState → s'.stream = s.stream →
    s'.maxPixelCount = s.maxPixelCount → s'.cmds = s.cmds → step s = .next t →
    ∃ t', step s' = .next t' ∧ t'.toBlockState = t.toBlockState ∧ t'.stream = t.stream ∧
      t'.maxPixelCount = t.maxPixelCount ∧ t'.cmds = t.cmds
end

