-- ==== Sys2Proof/Laws/Memory.lean ====
section
/-! SUPPORT. The laws of a memory: what a read gives after a write, that writes keep the canonical form, and which
addresses are written. -/

namespace Sys2Proof.Machine

variable {w : Nat}

/-- A read after a write: the value written at its address, the old value everywhere else. -/
theorem Memory.read_write (m : Memory w) (a x : Nat) (v : BitVec w) :
    Memory.read (Memory.write m a v) x = if x = a then some v else Memory.read m x := by
  induction m with
  | nil => simp [Memory.write, Memory.read]
  | cons c m ih =>
    obtain ⟨b, u⟩ := c
    by_cases hab : a < b
    · simp [Memory.write, Memory.read, hab]
    · by_cases he : a = b
      · subst he; simp only [Memory.write, Memory.read, hab, if_false, if_true]; split <;> rfl
      · simp only [Memory.write, hab, he, if_false, Memory.read, ih]
        by_cases hx : x = b
        · subst hx; simp [Ne.symm he]
        · simp [hx]

/-- A read after writes at consecutive addresses. -/
theorem Memory.read_writes (m : Memory w) (a x : Nat) (vs : List (BitVec w)) :
    Memory.read (Memory.writes m a vs) x =
      if a ≤ x ∧ x < a + vs.length then vs[x - a]? else Memory.read m x := by
  induction vs generalizing m a with
  | nil => simp [Memory.writes]
  | cons v vs ih =>
    simp only [Memory.writes, ih, Memory.read_write, List.length_cons]
    by_cases hx : x = a
    · subst hx; simp
    · by_cases hin : a + 1 ≤ x ∧ x < a + 1 + vs.length
      · have hs : x - a = (x - (a + 1)) + 1 := by omega
        rw [if_pos hin, if_pos (by omega), hs, List.getElem?_cons_succ]
      · rw [if_neg hin, if_neg hx, if_neg (by omega)]

/-- The canonical form says that the addresses rise strictly. -/
theorem Memory.wf_iff (m : Memory w) : Memory.wf m = true ↔ (Memory.keys m).Pairwise (· < ·) := by
  induction m with
  | nil => simp [Memory.wf, Memory.keys]
  | cons c m ih =>
    cases m with
    | nil => simp [Memory.wf, Memory.keys]
    | cons d m =>
      simp only [Memory.wf, Bool.and_eq_true, decide_eq_true_eq, ih]
      simp only [Memory.keys, List.map_cons, List.pairwise_cons]
      constructor
      · rintro ⟨hcd, hd, hp⟩
        refine ⟨fun x hx => ?_, hd, hp⟩
        rcases List.mem_cons.mp hx with rfl | hx
        · exact hcd
        · exact hcd.trans (hd x hx)
      · rintro ⟨hc, hd, hp⟩
        exact ⟨hc _ (List.mem_cons_self ..), hd, hp⟩

/-- Every address of a written memory was written before or is the one just written. -/
theorem Memory.mem_keys_write (m : Memory w) (a x : Nat) (v : BitVec w) (h : x ∈ Memory.keys (Memory.write m a v)) :
    x = a ∨ x ∈ Memory.keys m := by
  induction m with
  | nil => simpa [Memory.write, Memory.keys] using h
  | cons c m ih =>
    obtain ⟨b, u⟩ := c
    simp only [Memory.write] at h
    split at h
    · simpa [Memory.keys] using h
    · split at h
      · rename_i he; subst he; right; simpa [Memory.keys] using h
      · simp only [Memory.keys, List.map_cons, List.mem_cons] at h ih ⊢
        rcases h with h | h
        · exact .inr (.inl h)
        · exact (ih h).imp_right .inr

/-- A write keeps the canonical form. -/
theorem Memory.wf_write (m : Memory w) (a : Nat) (v : BitVec w) (h : Memory.wf m = true) :
    Memory.wf (Memory.write m a v) = true := by
  rw [Memory.wf_iff] at h ⊢
  induction m with
  | nil => simp [Memory.write, Memory.keys]
  | cons c m ih =>
    obtain ⟨b, u⟩ := c
    have hb : ∀ x ∈ Memory.keys m, b < x := (List.pairwise_cons.mp h).1
    have hm : (Memory.keys m).Pairwise (· < ·) := (List.pairwise_cons.mp h).2
    simp only [Memory.write]
    split
    · rename_i hab
      refine List.pairwise_cons.mpr ⟨fun x hx => ?_, h⟩
      rcases List.mem_cons.mp hx with rfl | hx
      · exact hab
      · exact Nat.lt_trans hab (hb x hx)
    · split
      · rename_i he; subst he; exact List.pairwise_cons.mpr ⟨hb, hm⟩
      · refine List.pairwise_cons.mpr ⟨fun x hx => ?_, ih hm⟩
        rcases Memory.mem_keys_write m a x v hx with rfl | hx
        · simp only at *; omega
        · exact hb x hx

/-- Writes at consecutive addresses keep the canonical form. -/
theorem Memory.wf_writes (m : Memory w) (a : Nat) (vs : List (BitVec w)) (h : Memory.wf m = true) :
    Memory.wf (Memory.writes m a vs) = true := by
  induction vs generalizing m a with
  | nil => exact h
  | cons v vs ih => exact ih _ _ (Memory.wf_write m a v h)

/-- An address reads as a written value exactly when it is listed. -/
theorem Memory.read_isSome_iff (m : Memory w) (a : Nat) : (Memory.read m a).isSome = true ↔ a ∈ Memory.keys m := by
  induction m with
  | nil => simp [Memory.read, Memory.keys]
  | cons c m ih =>
    obtain ⟨b, u⟩ := c
    simp only [Memory.read, Memory.keys, List.map_cons, List.mem_cons] at ih ⊢
    by_cases h : a = b <;> simp [h, ih]

/-- A memory that lists exactly the addresses below `n` reads as written exactly there. -/
theorem Memory.read_isSome_of_keys_range {m : Memory w} {n : Nat} (h : Memory.keys m = List.range n) (a : Nat) :
    (Memory.read m a).isSome = true ↔ a < n := by
  rw [Memory.read_isSome_iff, h, List.mem_range]

/-- A memory that lists exactly the addresses below `n` is canonical. -/
theorem Memory.wf_of_keys_range {m : Memory w} {n : Nat} (h : Memory.keys m = List.range n) :
    Memory.wf m = true := by
  rw [Memory.wf_iff, h]; exact List.pairwise_lt_range

/-- A write above every listed address lists it last. -/
theorem Memory.keys_write_above (m : Memory w) (a : Nat) (v : BitVec w) (h : ∀ x ∈ Memory.keys m, x < a) :
    Memory.keys (Memory.write m a v) = Memory.keys m ++ [a] := by
  induction m with
  | nil => rfl
  | cons c m ih =>
    obtain ⟨b, u⟩ := c
    have hb : b < a := h b (by simp [Memory.keys])
    have ih := ih fun x hx => h x (by simp only [Memory.keys, List.map_cons, List.mem_cons] at hx ⊢; exact .inr hx)
    simp only [Memory.keys] at ih
    simp [Memory.write, Memory.keys, show ¬ a < b by omega, show a ≠ b by omega, ih]

/-- Writes that continue a memory listing exactly the addresses below `a`. -/
theorem Memory.keys_writes_range (m : Memory w) (a : Nat) (vs : List (BitVec w))
    (h : Memory.keys m = List.range a) : Memory.keys (Memory.writes m a vs) = List.range (a + vs.length) := by
  induction vs generalizing m a with
  | nil => simpa [Memory.writes] using h
  | cons v vs ih =>
    have hk : Memory.keys (Memory.write m a v) = List.range (a + 1) := by
      rw [Memory.keys_write_above m a v (by simp [h]), h, List.range_succ]
    rw [Memory.writes, ih _ _ hk, List.length_cons]; congr 1; omega

end Sys2Proof.Machine
end

