-- ==== Sys2Proof/Laws/Operands.lean ====
section
/-! SUPPORT. What the operand forms give, bit by bit and as numbers: 16-bit fields, run lengths, payload bytes and
colormap entries. -/

namespace Sys2Proof

/-- The bits of a little-endian pair. -/
theorem le16_getLsbD (b0 b1 : Byte) (i : Nat) :
    (le16 b0 b1).getLsbD i = if i < 8 then b0.getLsbD i else b1.getLsbD (i - 8) := by
  show (b1 ++ b0 : BitVec (8 + 8)).getLsbD i = _
  rw [BitVec.getLsbD_append]

/-- The low byte of a little-endian pair is its first byte. -/
@[simp] theorem loByte_le16 (b0 b1 : Byte) : loByte (le16 b0 b1) = b0 := by
  apply BitVec.eq_of_getLsbD_eq; intro i hi
  simp [loByte, le16_getLsbD, hi]

/-- The high byte of a little-endian pair is its second byte. -/
@[simp] theorem hiByte_le16 (b0 b1 : Byte) : hiByte (le16 b0 b1) = b1 := by
  apply BitVec.eq_of_getLsbD_eq; intro i hi
  simp [hiByte, le16_getLsbD, hi]

/-- A 16-bit value is the pair of its bytes. -/
@[simp] theorem le16_loByte_hiByte (v : Half) : le16 (loByte v) (hiByte v) = v := by
  apply BitVec.eq_of_getLsbD_eq; intro i hi
  simp only [le16_getLsbD, loByte, hiByte, BitVec.getLsbD_extractLsb']
  split
  · simp [*]
  · rw [show 8 + (i - 8) = i by omega]; simp; omega

/-- Two little-endian pairs are equal when their bytes are. -/
theorem le16_inj {a b c d : Byte} : le16 a b = le16 c d ↔ a = c ∧ b = d :=
  ⟨fun h => ⟨by simpa using congrArg loByte h, by simpa using congrArg hiByte h⟩, fun ⟨h1, h2⟩ => by rw [h1, h2]⟩

end Sys2Proof

namespace Sys2Proof.Machine

/-- The run length is the count field plus 1: 1 to 128, no wrap. -/
theorem runLength_toNat (n : BitVec 7) : (runLength n).toNat = n.toNat + 1 := by
  have h := n.isLt
  rw [runLength, BitVec.toNat_add, BitVec.toNat_setWidth]
  simp; omega

/-- Byte `i` of a payload value in stream order. -/
theorem leBytes_getElem? (n : Nat) (v : BitVec 32) (i : Nat) (hi : i < n) :
    (leBytes n v)[i]? = some (v.extractLsb' (8 * i) 8) := by
  induction n generalizing v i with
  | zero => omega
  | succ n ih =>
    cases i with
    | zero => simp [leBytes]; ext k hk; simp
    | succ i =>
      simp only [leBytes, List.getElem?_cons_succ]
      rw [ih _ _ (by omega)]
      congr 1
      apply BitVec.eq_of_getLsbD_eq; intro k hk
      simp [hk]; congr 1; omega

/-- The bits of a payload value: its first byte, then the rest. -/
theorem lePack_cons_getLsbD (b : Byte) (bs : List Byte) (i : Nat) (hi : i < 32) :
    (lePack (b :: bs)).getLsbD i = if i < 8 then b.getLsbD i else (lePack bs).getLsbD (i - 8) := by
  simp only [lePack, BitVec.getLsbD_or, BitVec.getLsbD_setWidth, BitVec.getLsbD_shiftLeft, hi, decide_true,
    Bool.true_and]
  split
  · simp [*]
  · simp [BitVec.getLsbD_of_ge b i (by omega), *]

/-- The bits of a colormap entry: blue, green, red from the least significant. -/
theorem packEntry_getLsbD (b g r : Byte) (i : Nat) :
    (packEntry b g r).getLsbD i =
      if i < 8 then b.getLsbD i else if i < 16 then g.getLsbD (i - 8) else r.getLsbD (i - 16) := by
  show ((r ++ g : BitVec (8 + 8)) ++ b : BitVec (8 + 8 + 8)).getLsbD i = _
  rw [BitVec.getLsbD_append, BitVec.getLsbD_append]
  split_ifs <;> first | rfl | omega

/-- The blue channel of a packed entry. -/
@[simp] theorem entryBlue_packEntry (b g r : Byte) : entryBlue (packEntry b g r) = b := by
  apply BitVec.eq_of_getLsbD_eq; intro i hi
  simp [entryBlue, packEntry_getLsbD, hi]

/-- The green channel of a packed entry. -/
@[simp] theorem entryGreen_packEntry (b g r : Byte) : entryGreen (packEntry b g r) = g := by
  apply BitVec.eq_of_getLsbD_eq; intro i hi
  simp [entryGreen, packEntry_getLsbD, hi, show 8 + i < 16 by omega]

/-- The red channel of a packed entry. -/
@[simp] theorem entryRed_packEntry (b g r : Byte) : entryRed (packEntry b g r) = r := by
  apply BitVec.eq_of_getLsbD_eq; intro i hi
  simp [entryRed, packEntry_getLsbD, hi, show ¬ 16 + i < 8 by omega]

/-- A position of a stream below 2^36 advances without wrap. -/
theorem pos_add_toNat {a : BitVec 64} {n : Nat} (h : a.toNat < 2 ^ 36) (hn : n < 2 ^ 20) :
    (a + BitVec.ofNat 64 n).toNat = a.toNat + n := by
  rw [BitVec.toNat_add, BitVec.toNat_ofNat]; omega

end Sys2Proof.Machine
end

