-- ==== Sys2Proof/Laws/PerInstr.lean ====
section
/-! SUPPORT. The per-instruction family `UnitLength`: the encoding of a well-formed instruction has the length that
30_encoding.md R100 gives its format. -/

namespace Sys2Proof.Laws.UnitLength

/-- The lengths, in bytes, that a format allows (R100). -/
def allowed : Slot → Nat → Prop
  | .hdr18, n => n = 18
  | .idField, n => n ≤ 255
  | .cmape24, n => n = 3
  | .dkey16, n => n = 2
  | .px24, n => n = 3
  | .px32, n => n = 4
  | .hostcmd8, n => n = 1
  | .rlehdr8, n => n = 1
  | .px8, n => n = 1
  | .lookup, n => n = 1

/-- The encoding of the instruction is as long as its format says. -/
def Statement (i : Instr) : Prop := i.wellFormed = true → allowed (encode i).slot (encode i).bytes.length

theorem rawPkt (n : BitVec 7) : Statement (.rawPkt n) := fun _ => rfl

theorem runPkt (n : BitVec 7) : Statement (.runPkt n) := fun _ => rfl

theorem idxRaw8 : Statement .idxRaw8 := fun _ => rfl

theorem tcRaw24 : Statement .tcRaw24 := fun _ => rfl

theorem tcRaw32 : Statement .tcRaw32 := fun _ => rfl

theorem idxRle8 : Statement .idxRle8 := fun _ => rfl

theorem tcRle24 : Statement .tcRle24 := fun _ => rfl

theorem tcRle32 : Statement .tcRle32 := fun _ => rfl

theorem unsupported (key : Half) : Statement (.unsupported key) := fun _ => rfl

theorem hdrCapture (h : Header) : Statement (.hdrCapture h) := fun _ => rfl

theorem idConsume (bytes : List Byte) : Statement (.idConsume bytes) := fun h => by
  show bytes.length ≤ 255; simpa [Instr.wellFormed] using h

theorem cmapFill (b g r : Byte) : Statement (.cmapFill b g r) := fun _ => rfl

theorem cmapLookup (idx : Byte) : Statement (.cmapLookup idx) := fun _ => rfl

theorem unpack8 (idx : Byte) : Statement (.unpack8 idx) := fun _ => rfl

theorem unpack24 (b g r : Byte) : Statement (.unpack24 b g r) := fun _ => rfl

theorem unpack32 (b g r a : Byte) : Statement (.unpack32 b g r a) := fun _ => rfl

theorem cmdReset : Statement .cmdReset := fun _ => rfl

theorem cmdOpen (stream : Option Stream) : Statement (.cmdOpen stream) := fun _ => rfl

theorem cmdLoad : Statement .cmdLoad := fun _ => rfl

theorem cmdReadHeader : Statement .cmdReadHeader := fun _ => rfl

theorem cmdReadCmap : Statement .cmdReadCmap := fun _ => rfl

theorem cmdReadIdx : Statement .cmdReadIdx := fun _ => rfl

theorem cmdReadRgb24 : Statement .cmdReadRgb24 := fun _ => rfl

theorem cmdReadArgb32 : Statement .cmdReadArgb32 := fun _ => rfl

theorem cmdReadStatus : Statement .cmdReadStatus := fun _ => rfl

end Sys2Proof.Laws.UnitLength
end

