-- ==== Sys2Proof/Laws/State.lean ====
section
/-! SUPPORT. Each field of the state after each named update: unchanged, or what the update gives it. -/

namespace Sys2Proof.Machine

/-! ### setResultValid -/

@[simp] theorem setResultValid_phase (v : Bool) (s : State) : (setResultValid v s).phase = s.phase := rfl
@[simp] theorem setResultValid_hdr (v : Bool) (s : State) : (setResultValid v s).hdr = s.hdr := rfl
@[simp] theorem setResultValid_sizes (v : Bool) (s : State) : (setResultValid v s).sizes = s.sizes := rfl
@[simp] theorem setResultValid_cmapCount (v : Bool) (s : State) : (setResultValid v s).cmapCount = s.cmapCount := rfl
@[simp] theorem setResultValid_cmap (v : Bool) (s : State) : (setResultValid v s).cmap = s.cmap := rfl
@[simp] theorem setResultValid_idBuf (v : Bool) (s : State) : (setResultValid v s).idBuf = s.idBuf := rfl
@[simp] theorem setResultValid_strategy (v : Bool) (s : State) : (setResultValid v s).strategy = s.strategy := rfl
@[simp] theorem setResultValid_pix (v : Bool) (s : State) : (setResultValid v s).pix = s.pix := rfl
@[simp] theorem setResultValid_pkt (v : Bool) (s : State) : (setResultValid v s).pkt = s.pkt := rfl
@[simp] theorem setResultValid_inPos (v : Bool) (s : State) : (setResultValid v s).inPos = s.inPos := rfl
@[simp] theorem setResultValid_flags (v : Bool) (s : State) : (setResultValid v s).flags = { s.flags with resultValid := v } := rfl
@[simp] theorem setResultValid_error (v : Bool) (s : State) : (setResultValid v s).error = s.error := rfl
@[simp] theorem setResultValid_refused (v : Bool) (s : State) : (setResultValid v s).refused = s.refused := rfl
@[simp] theorem setResultValid_out (v : Bool) (s : State) : (setResultValid v s).out = s.out := rfl
@[simp] theorem setResultValid_stream (v : Bool) (s : State) : (setResultValid v s).stream = s.stream := rfl
@[simp] theorem setResultValid_maxPixelCount (v : Bool) (s : State) : (setResultValid v s).maxPixelCount = s.maxPixelCount := rfl
@[simp] theorem setResultValid_cmds (v : Bool) (s : State) : (setResultValid v s).cmds = s.cmds := rfl
@[simp] theorem setResultValid_resp (v : Bool) (s : State) : (setResultValid v s).resp = s.resp := rfl
@[simp] theorem setResultValid_epoch (v : Bool) (s : State) : (setResultValid v s).epoch = s.epoch := rfl

/-! ### setIdxPresent -/

@[simp] theorem setIdxPresent_phase (st : Strategy) (s : State) : (setIdxPresent st s).phase = s.phase := rfl
@[simp] theorem setIdxPresent_hdr (st : Strategy) (s : State) : (setIdxPresent st s).hdr = s.hdr := rfl
@[simp] theorem setIdxPresent_sizes (st : Strategy) (s : State) : (setIdxPresent st s).sizes = s.sizes := rfl
@[simp] theorem setIdxPresent_cmapCount (st : Strategy) (s : State) : (setIdxPresent st s).cmapCount = s.cmapCount := rfl
@[simp] theorem setIdxPresent_cmap (st : Strategy) (s : State) : (setIdxPresent st s).cmap = s.cmap := rfl
@[simp] theorem setIdxPresent_idBuf (st : Strategy) (s : State) : (setIdxPresent st s).idBuf = s.idBuf := rfl
@[simp] theorem setIdxPresent_strategy (st : Strategy) (s : State) : (setIdxPresent st s).strategy = s.strategy := rfl
@[simp] theorem setIdxPresent_pix (st : Strategy) (s : State) : (setIdxPresent st s).pix = s.pix := rfl
@[simp] theorem setIdxPresent_pkt (st : Strategy) (s : State) : (setIdxPresent st s).pkt = s.pkt := rfl
@[simp] theorem setIdxPresent_inPos (st : Strategy) (s : State) : (setIdxPresent st s).inPos = s.inPos := rfl
@[simp] theorem setIdxPresent_flags (st : Strategy) (s : State) : (setIdxPresent st s).flags = { s.flags with idxPresent := st.isIndexed } := rfl
@[simp] theorem setIdxPresent_error (st : Strategy) (s : State) : (setIdxPresent st s).error = s.error := rfl
@[simp] theorem setIdxPresent_refused (st : Strategy) (s : State) : (setIdxPresent st s).refused = s.refused := rfl
@[simp] theorem setIdxPresent_out (st : Strategy) (s : State) : (setIdxPresent st s).out = s.out := rfl
@[simp] theorem setIdxPresent_stream (st : Strategy) (s : State) : (setIdxPresent st s).stream = s.stream := rfl
@[simp] theorem setIdxPresent_maxPixelCount (st : Strategy) (s : State) : (setIdxPresent st s).maxPixelCount = s.maxPixelCount := rfl
@[simp] theorem setIdxPresent_cmds (st : Strategy) (s : State) : (setIdxPresent st s).cmds = s.cmds := rfl
@[simp] theorem setIdxPresent_resp (st : Strategy) (s : State) : (setIdxPresent st s).resp = s.resp := rfl
@[simp] theorem setIdxPresent_epoch (st : Strategy) (s : State) : (setIdxPresent st s).epoch = s.epoch := rfl

/-! ### noteOverrun -/

@[simp] theorem noteOverrun_phase (s : State) : (noteOverrun s).phase = s.phase := rfl
@[simp] theorem noteOverrun_hdr (s : State) : (noteOverrun s).hdr = s.hdr := rfl
@[simp] theorem noteOverrun_sizes (s : State) : (noteOverrun s).sizes = s.sizes := rfl
@[simp] theorem noteOverrun_cmapCount (s : State) : (noteOverrun s).cmapCount = s.cmapCount := rfl
@[simp] theorem noteOverrun_cmap (s : State) : (noteOverrun s).cmap = s.cmap := rfl
@[simp] theorem noteOverrun_idBuf (s : State) : (noteOverrun s).idBuf = s.idBuf := rfl
@[simp] theorem noteOverrun_strategy (s : State) : (noteOverrun s).strategy = s.strategy := rfl
@[simp] theorem noteOverrun_pix (s : State) : (noteOverrun s).pix = s.pix := rfl
@[simp] theorem noteOverrun_pkt (s : State) : (noteOverrun s).pkt = s.pkt := rfl
@[simp] theorem noteOverrun_inPos (s : State) : (noteOverrun s).inPos = s.inPos := rfl
@[simp] theorem noteOverrun_flags (s : State) : (noteOverrun s).flags = { s.flags with pktOverrun := s.flags.pktOverrun || decide (0 < s.pkt.remain.toNat) } := rfl
@[simp] theorem noteOverrun_error (s : State) : (noteOverrun s).error = s.error := rfl
@[simp] theorem noteOverrun_refused (s : State) : (noteOverrun s).refused = s.refused := rfl
@[simp] theorem noteOverrun_out (s : State) : (noteOverrun s).out = s.out := rfl
@[simp] theorem noteOverrun_stream (s : State) : (noteOverrun s).stream = s.stream := rfl
@[simp] theorem noteOverrun_maxPixelCount (s : State) : (noteOverrun s).maxPixelCount = s.maxPixelCount := rfl
@[simp] theorem noteOverrun_cmds (s : State) : (noteOverrun s).cmds = s.cmds := rfl
@[simp] theorem noteOverrun_resp (s : State) : (noteOverrun s).resp = s.resp := rfl
@[simp] theorem noteOverrun_epoch (s : State) : (noteOverrun s).epoch = s.epoch := rfl

/-! ### markRefused -/

@[simp] theorem markRefused_phase (s : State) : (markRefused s).phase = s.phase := rfl
@[simp] theorem markRefused_hdr (s : State) : (markRefused s).hdr = s.hdr := rfl
@[simp] theorem markRefused_sizes (s : State) : (markRefused s).sizes = s.sizes := rfl
@[simp] theorem markRefused_cmapCount (s : State) : (markRefused s).cmapCount = s.cmapCount := rfl
@[simp] theorem markRefused_cmap (s : State) : (markRefused s).cmap = s.cmap := rfl
@[simp] theorem markRefused_idBuf (s : State) : (markRefused s).idBuf = s.idBuf := rfl
@[simp] theorem markRefused_strategy (s : State) : (markRefused s).strategy = s.strategy := rfl
@[simp] theorem markRefused_pix (s : State) : (markRefused s).pix = s.pix := rfl
@[simp] theorem markRefused_pkt (s : State) : (markRefused s).pkt = s.pkt := rfl
@[simp] theorem markRefused_inPos (s : State) : (markRefused s).inPos = s.inPos := rfl
@[simp] theorem markRefused_flags (s : State) : (markRefused s).flags = s.flags := rfl
@[simp] theorem markRefused_error (s : State) : (markRefused s).error = s.error := rfl
@[simp] theorem markRefused_refused (s : State) : (markRefused s).refused = true := rfl
@[simp] theorem markRefused_out (s : State) : (markRefused s).out = s.out := rfl
@[simp] theorem markRefused_stream (s : State) : (markRefused s).stream = s.stream := rfl
@[simp] theorem markRefused_maxPixelCount (s : State) : (markRefused s).maxPixelCount = s.maxPixelCount := rfl
@[simp] theorem markRefused_cmds (s : State) : (markRefused s).cmds = s.cmds := rfl
@[simp] theorem markRefused_resp (s : State) : (markRefused s).resp = s.resp := rfl
@[simp] theorem markRefused_epoch (s : State) : (markRefused s).epoch = s.epoch := rfl

/-! ### outWrites -/

@[simp] theorem outWrites_phase (sp : Space) (a : Nat) (vs : List Byte) (s : State) : (outWrites sp a vs s).phase = s.phase := rfl
@[simp] theorem outWrites_hdr (sp : Space) (a : Nat) (vs : List Byte) (s : State) : (outWrites sp a vs s).hdr = s.hdr := rfl
@[simp] theorem outWrites_sizes (sp : Space) (a : Nat) (vs : List Byte) (s : State) : (outWrites sp a vs s).sizes = s.sizes := rfl
@[simp] theorem outWrites_cmapCount (sp : Space) (a : Nat) (vs : List Byte) (s : State) : (outWrites sp a vs s).cmapCount = s.cmapCount := rfl
@[simp] theorem outWrites_cmap (sp : Space) (a : Nat) (vs : List Byte) (s : State) : (outWrites sp a vs s).cmap = s.cmap := rfl
@[simp] theorem outWrites_idBuf (sp : Space) (a : Nat) (vs : List Byte) (s : State) : (outWrites sp a vs s).idBuf = s.idBuf := rfl
@[simp] theorem outWrites_strategy (sp : Space) (a : Nat) (vs : List Byte) (s : State) : (outWrites sp a vs s).strategy = s.strategy := rfl
@[simp] theorem outWrites_pix (sp : Space) (a : Nat) (vs : List Byte) (s : State) : (outWrites sp a vs s).pix = s.pix := rfl
@[simp] theorem outWrites_pkt (sp : Space) (a : Nat) (vs : List Byte) (s : State) : (outWrites sp a vs s).pkt = s.pkt := rfl
@[simp] theorem outWrites_inPos (sp : Space) (a : Nat) (vs : List Byte) (s : State) : (outWrites sp a vs s).inPos = s.inPos := rfl
@[simp] theorem outWrites_flags (sp : Space) (a : Nat) (vs : List Byte) (s : State) : (outWrites sp a vs s).flags = s.flags := rfl
@[simp] theorem outWrites_error (sp : Space) (a : Nat) (vs : List Byte) (s : State) : (outWrites sp a vs s).error = s.error := rfl
@[simp] theorem outWrites_refused (sp : Space) (a : Nat) (vs : List Byte) (s : State) : (outWrites sp a vs s).refused = s.refused := rfl
@[simp] theorem outWrites_out (sp : Space) (a : Nat) (vs : List Byte) (s : State) : (outWrites sp a vs s).out = s.out.set sp (Memory.writes (s.out.get sp) a vs) := rfl
@[simp] theorem outWrites_stream (sp : Space) (a : Nat) (vs : List Byte) (s : State) : (outWrites sp a vs s).stream = s.stream := rfl
@[simp] theorem outWrites_maxPixelCount (sp : Space) (a : Nat) (vs : List Byte) (s : State) : (outWrites sp a vs s).maxPixelCount = s.maxPixelCount := rfl
@[simp] theorem outWrites_cmds (sp : Space) (a : Nat) (vs : List Byte) (s : State) : (outWrites sp a vs s).cmds = s.cmds := rfl
@[simp] theorem outWrites_resp (sp : Space) (a : Nat) (vs : List Byte) (s : State) : (outWrites sp a vs s).resp = s.resp := rfl
@[simp] theorem outWrites_epoch (sp : Space) (a : Nat) (vs : List Byte) (s : State) : (outWrites sp a vs s).epoch = s.epoch := rfl

/-! ### cmapWrite -/

@[simp] theorem cmapWrite_phase (k : Nat) (e : BitVec 24) (s : State) : (cmapWrite k e s).phase = s.phase := rfl
@[simp] theorem cmapWrite_hdr (k : Nat) (e : BitVec 24) (s : State) : (cmapWrite k e s).hdr = s.hdr := rfl
@[simp] theorem cmapWrite_sizes (k : Nat) (e : BitVec 24) (s : State) : (cmapWrite k e s).sizes = s.sizes := rfl
@[simp] theorem cmapWrite_cmapCount (k : Nat) (e : BitVec 24) (s : State) : (cmapWrite k e s).cmapCount = s.cmapCount := rfl
@[simp] theorem cmapWrite_cmap (k : Nat) (e : BitVec 24) (s : State) : (cmapWrite k e s).cmap = Memory.write s.cmap k e := rfl
@[simp] theorem cmapWrite_idBuf (k : Nat) (e : BitVec 24) (s : State) : (cmapWrite k e s).idBuf = s.idBuf := rfl
@[simp] theorem cmapWrite_strategy (k : Nat) (e : BitVec 24) (s : State) : (cmapWrite k e s).strategy = s.strategy := rfl
@[simp] theorem cmapWrite_pix (k : Nat) (e : BitVec 24) (s : State) : (cmapWrite k e s).pix = s.pix := rfl
@[simp] theorem cmapWrite_pkt (k : Nat) (e : BitVec 24) (s : State) : (cmapWrite k e s).pkt = s.pkt := rfl
@[simp] theorem cmapWrite_inPos (k : Nat) (e : BitVec 24) (s : State) : (cmapWrite k e s).inPos = s.inPos := rfl
@[simp] theorem cmapWrite_flags (k : Nat) (e : BitVec 24) (s : State) : (cmapWrite k e s).flags = s.flags := rfl
@[simp] theorem cmapWrite_error (k : Nat) (e : BitVec 24) (s : State) : (cmapWrite k e s).error = s.error := rfl
@[simp] theorem cmapWrite_refused (k : Nat) (e : BitVec 24) (s : State) : (cmapWrite k e s).refused = s.refused := rfl
@[simp] theorem cmapWrite_out (k : Nat) (e : BitVec 24) (s : State) : (cmapWrite k e s).out = s.out := rfl
@[simp] theorem cmapWrite_stream (k : Nat) (e : BitVec 24) (s : State) : (cmapWrite k e s).stream = s.stream := rfl
@[simp] theorem cmapWrite_maxPixelCount (k : Nat) (e : BitVec 24) (s : State) : (cmapWrite k e s).maxPixelCount = s.maxPixelCount := rfl
@[simp] theorem cmapWrite_cmds (k : Nat) (e : BitVec 24) (s : State) : (cmapWrite k e s).cmds = s.cmds := rfl
@[simp] theorem cmapWrite_resp (k : Nat) (e : BitVec 24) (s : State) : (cmapWrite k e s).resp = s.resp := rfl
@[simp] theorem cmapWrite_epoch (k : Nat) (e : BitVec 24) (s : State) : (cmapWrite k e s).epoch = s.epoch := rfl

/-! ### reply -/

@[simp] theorem reply_phase (o : CmdOutcome) (d : Data) (s : State) : (reply o d s).phase = s.phase := rfl
@[simp] theorem reply_hdr (o : CmdOutcome) (d : Data) (s : State) : (reply o d s).hdr = s.hdr := rfl
@[simp] theorem reply_sizes (o : CmdOutcome) (d : Data) (s : State) : (reply o d s).sizes = s.sizes := rfl
@[simp] theorem reply_cmapCount (o : CmdOutcome) (d : Data) (s : State) : (reply o d s).cmapCount = s.cmapCount := rfl
@[simp] theorem reply_cmap (o : CmdOutcome) (d : Data) (s : State) : (reply o d s).cmap = s.cmap := rfl
@[simp] theorem reply_idBuf (o : CmdOutcome) (d : Data) (s : State) : (reply o d s).idBuf = s.idBuf := rfl
@[simp] theorem reply_strategy (o : CmdOutcome) (d : Data) (s : State) : (reply o d s).strategy = s.strategy := rfl
@[simp] theorem reply_pix (o : CmdOutcome) (d : Data) (s : State) : (reply o d s).pix = s.pix := rfl
@[simp] theorem reply_pkt (o : CmdOutcome) (d : Data) (s : State) : (reply o d s).pkt = s.pkt := rfl
@[simp] theorem reply_inPos (o : CmdOutcome) (d : Data) (s : State) : (reply o d s).inPos = s.inPos := rfl
@[simp] theorem reply_flags (o : CmdOutcome) (d : Data) (s : State) : (reply o d s).flags = s.flags := rfl
@[simp] theorem reply_error (o : CmdOutcome) (d : Data) (s : State) : (reply o d s).error = s.error := rfl
@[simp] theorem reply_refused (o : CmdOutcome) (d : Data) (s : State) : (reply o d s).refused = s.refused := rfl
@[simp] theorem reply_out (o : CmdOutcome) (d : Data) (s : State) : (reply o d s).out = s.out := rfl
@[simp] theorem reply_stream (o : CmdOutcome) (d : Data) (s : State) : (reply o d s).stream = s.stream := rfl
@[simp] theorem reply_maxPixelCount (o : CmdOutcome) (d : Data) (s : State) : (reply o d s).maxPixelCount = s.maxPixelCount := rfl
@[simp] theorem reply_cmds (o : CmdOutcome) (d : Data) (s : State) : (reply o d s).cmds = s.cmds := rfl
@[simp] theorem reply_resp (o : CmdOutcome) (d : Data) (s : State) : (reply o d s).resp = some ⟨o, d⟩ := rfl
@[simp] theorem reply_epoch (o : CmdOutcome) (d : Data) (s : State) : (reply o d s).epoch = s.epoch := rfl

/-! ### refuse -/

@[simp] theorem refuse_phase (s : State) : (refuse s).phase = s.phase := rfl
@[simp] theorem refuse_hdr (s : State) : (refuse s).hdr = s.hdr := rfl
@[simp] theorem refuse_sizes (s : State) : (refuse s).sizes = s.sizes := rfl
@[simp] theorem refuse_cmapCount (s : State) : (refuse s).cmapCount = s.cmapCount := rfl
@[simp] theorem refuse_cmap (s : State) : (refuse s).cmap = s.cmap := rfl
@[simp] theorem refuse_idBuf (s : State) : (refuse s).idBuf = s.idBuf := rfl
@[simp] theorem refuse_strategy (s : State) : (refuse s).strategy = s.strategy := rfl
@[simp] theorem refuse_pix (s : State) : (refuse s).pix = s.pix := rfl
@[simp] theorem refuse_pkt (s : State) : (refuse s).pkt = s.pkt := rfl
@[simp] theorem refuse_inPos (s : State) : (refuse s).inPos = s.inPos := rfl
@[simp] theorem refuse_flags (s : State) : (refuse s).flags = s.flags := rfl
@[simp] theorem refuse_error (s : State) : (refuse s).error = s.error := rfl
@[simp] theorem refuse_refused (s : State) : (refuse s).refused = true := rfl
@[simp] theorem refuse_out (s : State) : (refuse s).out = s.out := rfl
@[simp] theorem refuse_stream (s : State) : (refuse s).stream = s.stream := rfl
@[simp] theorem refuse_maxPixelCount (s : State) : (refuse s).maxPixelCount = s.maxPixelCount := rfl
@[simp] theorem refuse_cmds (s : State) : (refuse s).cmds = s.cmds := rfl
@[simp] theorem refuse_resp (s : State) : (refuse s).resp = some ⟨.refused, .none⟩ := rfl
@[simp] theorem refuse_epoch (s : State) : (refuse s).epoch = s.epoch := rfl

/-! ### releaseStream -/

@[simp] theorem releaseStream_phase (s : State) : (releaseStream s).phase = s.phase := rfl
@[simp] theorem releaseStream_hdr (s : State) : (releaseStream s).hdr = s.hdr := rfl
@[simp] theorem releaseStream_sizes (s : State) : (releaseStream s).sizes = s.sizes := rfl
@[simp] theorem releaseStream_cmapCount (s : State) : (releaseStream s).cmapCount = s.cmapCount := rfl
@[simp] theorem releaseStream_cmap (s : State) : (releaseStream s).cmap = s.cmap := rfl
@[simp] theorem releaseStream_idBuf (s : State) : (releaseStream s).idBuf = s.idBuf := rfl
@[simp] theorem releaseStream_strategy (s : State) : (releaseStream s).strategy = s.strategy := rfl
@[simp] theorem releaseStream_pix (s : State) : (releaseStream s).pix = s.pix := rfl
@[simp] theorem releaseStream_pkt (s : State) : (releaseStream s).pkt = s.pkt := rfl
@[simp] theorem releaseStream_inPos (s : State) : (releaseStream s).inPos = s.inPos := rfl
@[simp] theorem releaseStream_flags (s : State) : (releaseStream s).flags = s.flags := rfl
@[simp] theorem releaseStream_error (s : State) : (releaseStream s).error = s.error := rfl
@[simp] theorem releaseStream_refused (s : State) : (releaseStream s).refused = s.refused := rfl
@[simp] theorem releaseStream_out (s : State) : (releaseStream s).out = s.out := rfl
@[simp] theorem releaseStream_stream (s : State) : (releaseStream s).stream = none := rfl
@[simp] theorem releaseStream_maxPixelCount (s : State) : (releaseStream s).maxPixelCount = s.maxPixelCount := rfl
@[simp] theorem releaseStream_cmds (s : State) : (releaseStream s).cmds = s.cmds := rfl
@[simp] theorem releaseStream_resp (s : State) : (releaseStream s).resp = s.resp := rfl
@[simp] theorem releaseStream_epoch (s : State) : (releaseStream s).epoch = s.epoch := rfl

/-! ### raise -/

@[simp] theorem raise_phase (e : Err) (s : State) : (raise e s).phase = .closed := rfl
@[simp] theorem raise_hdr (e : Err) (s : State) : (raise e s).hdr = s.hdr := rfl
@[simp] theorem raise_sizes (e : Err) (s : State) : (raise e s).sizes = s.sizes := rfl
@[simp] theorem raise_cmapCount (e : Err) (s : State) : (raise e s).cmapCount = s.cmapCount := rfl
@[simp] theorem raise_cmap (e : Err) (s : State) : (raise e s).cmap = s.cmap := rfl
@[simp] theorem raise_idBuf (e : Err) (s : State) : (raise e s).idBuf = s.idBuf := rfl
@[simp] theorem raise_strategy (e : Err) (s : State) : (raise e s).strategy = s.strategy := rfl
@[simp] theorem raise_pix (e : Err) (s : State) : (raise e s).pix = s.pix := rfl
@[simp] theorem raise_pkt (e : Err) (s : State) : (raise e s).pkt = s.pkt := rfl
@[simp] theorem raise_inPos (e : Err) (s : State) : (raise e s).inPos = s.inPos := rfl
@[simp] theorem raise_flags (e : Err) (s : State) : (raise e s).flags = { s.flags with resultValid := false } := rfl
@[simp] theorem raise_error (e : Err) (s : State) : (raise e s).error = ⟨e, s.phase, s.pix⟩ := rfl
@[simp] theorem raise_refused (e : Err) (s : State) : (raise e s).refused = s.refused := rfl
@[simp] theorem raise_out (e : Err) (s : State) : (raise e s).out = s.out := rfl
@[simp] theorem raise_stream (e : Err) (s : State) : (raise e s).stream = none := rfl
@[simp] theorem raise_maxPixelCount (e : Err) (s : State) : (raise e s).maxPixelCount = s.maxPixelCount := rfl
@[simp] theorem raise_cmds (e : Err) (s : State) : (raise e s).cmds = s.cmds := rfl
@[simp] theorem raise_resp (e : Err) (s : State) : (raise e s).resp = some ⟨.fail e, .none⟩ := rfl
@[simp] theorem raise_epoch (e : Err) (s : State) : (raise e s).epoch = s.epoch := rfl

/-! ### raiseShort -/

@[simp] theorem raiseShort_phase (s : State) : (raiseShort s).phase = .closed := rfl
@[simp] theorem raiseShort_hdr (s : State) : (raiseShort s).hdr = s.hdr := rfl
@[simp] theorem raiseShort_sizes (s : State) : (raiseShort s).sizes = s.sizes := rfl
@[simp] theorem raiseShort_cmapCount (s : State) : (raiseShort s).cmapCount = s.cmapCount := rfl
@[simp] theorem raiseShort_cmap (s : State) : (raiseShort s).cmap = s.cmap := rfl
@[simp] theorem raiseShort_idBuf (s : State) : (raiseShort s).idBuf = s.idBuf := rfl
@[simp] theorem raiseShort_strategy (s : State) : (raiseShort s).strategy = s.strategy := rfl
@[simp] theorem raiseShort_pix (s : State) : (raiseShort s).pix = s.pix := rfl
@[simp] theorem raiseShort_pkt (s : State) : (raiseShort s).pkt = s.pkt := rfl
@[simp] theorem raiseShort_inPos (s : State) : (raiseShort s).inPos = s.inPos := rfl
@[simp] theorem raiseShort_flags (s : State) : (raiseShort s).flags = { s.flags with resultValid := false } := rfl
@[simp] theorem raiseShort_error (s : State) : (raiseShort s).error = ⟨shortError s.phase, s.phase, s.pix⟩ := rfl
@[simp] theorem raiseShort_refused (s : State) : (raiseShort s).refused = s.refused := rfl
@[simp] theorem raiseShort_out (s : State) : (raiseShort s).out = s.out := rfl
@[simp] theorem raiseShort_stream (s : State) : (raiseShort s).stream = none := rfl
@[simp] theorem raiseShort_maxPixelCount (s : State) : (raiseShort s).maxPixelCount = s.maxPixelCount := rfl
@[simp] theorem raiseShort_cmds (s : State) : (raiseShort s).cmds = s.cmds := rfl
@[simp] theorem raiseShort_resp (s : State) : (raiseShort s).resp = some ⟨.fail (shortError s.phase), .none⟩ := rfl
@[simp] theorem raiseShort_epoch (s : State) : (raiseShort s).epoch = s.epoch := rfl

/-! ### emitColor -/

@[simp] theorem emitColor_phase (a r g b : Byte) (s : State) : (emitColor a r g b s).phase = s.phase := rfl
@[simp] theorem emitColor_hdr (a r g b : Byte) (s : State) : (emitColor a r g b s).hdr = s.hdr := rfl
@[simp] theorem emitColor_sizes (a r g b : Byte) (s : State) : (emitColor a r g b s).sizes = s.sizes := rfl
@[simp] theorem emitColor_cmapCount (a r g b : Byte) (s : State) : (emitColor a r g b s).cmapCount = s.cmapCount := rfl
@[simp] theorem emitColor_cmap (a r g b : Byte) (s : State) : (emitColor a r g b s).cmap = s.cmap := rfl
@[simp] theorem emitColor_idBuf (a r g b : Byte) (s : State) : (emitColor a r g b s).idBuf = s.idBuf := rfl
@[simp] theorem emitColor_strategy (a r g b : Byte) (s : State) : (emitColor a r g b s).strategy = s.strategy := rfl
@[simp] theorem emitColor_pix (a r g b : Byte) (s : State) : (emitColor a r g b s).pix = s.pix := rfl
@[simp] theorem emitColor_pkt (a r g b : Byte) (s : State) : (emitColor a r g b s).pkt = s.pkt := rfl
@[simp] theorem emitColor_inPos (a r g b : Byte) (s : State) : (emitColor a r g b s).inPos = s.inPos := rfl
@[simp] theorem emitColor_flags (a r g b : Byte) (s : State) : (emitColor a r g b s).flags = s.flags := rfl
@[simp] theorem emitColor_error (a r g b : Byte) (s : State) : (emitColor a r g b s).error = s.error := rfl
@[simp] theorem emitColor_refused (a r g b : Byte) (s : State) : (emitColor a r g b s).refused = s.refused := rfl
@[simp] theorem emitColor_out (a r g b : Byte) (s : State) : (emitColor a r g b s).out = { s.out with rgb := Memory.writes s.out.rgb (pixelAddr .rgb s.pix) [r, g, b], argb := Memory.writes s.out.argb (pixelAddr .argb s.pix) [a, r, g, b] } := rfl
@[simp] theorem emitColor_stream (a r g b : Byte) (s : State) : (emitColor a r g b s).stream = s.stream := rfl
@[simp] theorem emitColor_maxPixelCount (a r g b : Byte) (s : State) : (emitColor a r g b s).maxPixelCount = s.maxPixelCount := rfl
@[simp] theorem emitColor_cmds (a r g b : Byte) (s : State) : (emitColor a r g b s).cmds = s.cmds := rfl
@[simp] theorem emitColor_resp (a r g b : Byte) (s : State) : (emitColor a r g b s).resp = s.resp := rfl
@[simp] theorem emitColor_epoch (a r g b : Byte) (s : State) : (emitColor a r g b s).epoch = s.epoch := rfl

/-! ### emitIndex -/

@[simp] theorem emitIndex_phase (i : Byte) (s : State) : (emitIndex i s).phase = s.phase := rfl
@[simp] theorem emitIndex_hdr (i : Byte) (s : State) : (emitIndex i s).hdr = s.hdr := rfl
@[simp] theorem emitIndex_sizes (i : Byte) (s : State) : (emitIndex i s).sizes = s.sizes := rfl
@[simp] theorem emitIndex_cmapCount (i : Byte) (s : State) : (emitIndex i s).cmapCount = s.cmapCount := rfl
@[simp] theorem emitIndex_cmap (i : Byte) (s : State) : (emitIndex i s).cmap = s.cmap := rfl
@[simp] theorem emitIndex_idBuf (i : Byte) (s : State) : (emitIndex i s).idBuf = s.idBuf := rfl
@[simp] theorem emitIndex_strategy (i : Byte) (s : State) : (emitIndex i s).strategy = s.strategy := rfl
@[simp] theorem emitIndex_pix (i : Byte) (s : State) : (emitIndex i s).pix = s.pix := rfl
@[simp] theorem emitIndex_pkt (i : Byte) (s : State) : (emitIndex i s).pkt = s.pkt := rfl
@[simp] theorem emitIndex_inPos (i : Byte) (s : State) : (emitIndex i s).inPos = s.inPos := rfl
@[simp] theorem emitIndex_flags (i : Byte) (s : State) : (emitIndex i s).flags = s.flags := rfl
@[simp] theorem emitIndex_error (i : Byte) (s : State) : (emitIndex i s).error = s.error := rfl
@[simp] theorem emitIndex_refused (i : Byte) (s : State) : (emitIndex i s).refused = s.refused := rfl
@[simp] theorem emitIndex_out (i : Byte) (s : State) : (emitIndex i s).out = { s.out with idx := Memory.writes s.out.idx (pixelAddr .idx s.pix) [i] } := rfl
@[simp] theorem emitIndex_stream (i : Byte) (s : State) : (emitIndex i s).stream = s.stream := rfl
@[simp] theorem emitIndex_maxPixelCount (i : Byte) (s : State) : (emitIndex i s).maxPixelCount = s.maxPixelCount := rfl
@[simp] theorem emitIndex_cmds (i : Byte) (s : State) : (emitIndex i s).cmds = s.cmds := rfl
@[simp] theorem emitIndex_resp (i : Byte) (s : State) : (emitIndex i s).resp = s.resp := rfl
@[simp] theorem emitIndex_epoch (i : Byte) (s : State) : (emitIndex i s).epoch = s.epoch := rfl

/-! ### completePixel -/

@[simp] theorem completePixel_phase (s : State) : (completePixel s).phase = s.phase := rfl
@[simp] theorem completePixel_hdr (s : State) : (completePixel s).hdr = s.hdr := rfl
@[simp] theorem completePixel_sizes (s : State) : (completePixel s).sizes = s.sizes := rfl
@[simp] theorem completePixel_cmapCount (s : State) : (completePixel s).cmapCount = s.cmapCount := rfl
@[simp] theorem completePixel_cmap (s : State) : (completePixel s).cmap = s.cmap := rfl
@[simp] theorem completePixel_idBuf (s : State) : (completePixel s).idBuf = s.idBuf := rfl
@[simp] theorem completePixel_strategy (s : State) : (completePixel s).strategy = s.strategy := rfl
@[simp] theorem completePixel_pix (s : State) : (completePixel s).pix = s.pix + 1 := rfl
@[simp] theorem completePixel_pkt (s : State) : (completePixel s).pkt = if s.strategy.isRle then { s.pkt with remain := s.pkt.remain - 1 } else s.pkt := rfl
@[simp] theorem completePixel_inPos (s : State) : (completePixel s).inPos = s.inPos := rfl
@[simp] theorem completePixel_flags (s : State) : (completePixel s).flags = s.flags := rfl
@[simp] theorem completePixel_error (s : State) : (completePixel s).error = s.error := rfl
@[simp] theorem completePixel_refused (s : State) : (completePixel s).refused = s.refused := rfl
@[simp] theorem completePixel_out (s : State) : (completePixel s).out = s.out := rfl
@[simp] theorem completePixel_stream (s : State) : (completePixel s).stream = s.stream := rfl
@[simp] theorem completePixel_maxPixelCount (s : State) : (completePixel s).maxPixelCount = s.maxPixelCount := rfl
@[simp] theorem completePixel_cmds (s : State) : (completePixel s).cmds = s.cmds := rfl
@[simp] theorem completePixel_resp (s : State) : (completePixel s).resp = s.resp := rfl
@[simp] theorem completePixel_epoch (s : State) : (completePixel s).epoch = s.epoch := rfl

/-! ### finish -/

@[simp] theorem finish_phase (s : State) : (finish s).phase = .decoded := rfl
@[simp] theorem finish_hdr (s : State) : (finish s).hdr = s.hdr := rfl
@[simp] theorem finish_sizes (s : State) : (finish s).sizes = s.sizes := rfl
@[simp] theorem finish_cmapCount (s : State) : (finish s).cmapCount = s.cmapCount := rfl
@[simp] theorem finish_cmap (s : State) : (finish s).cmap = s.cmap := rfl
@[simp] theorem finish_idBuf (s : State) : (finish s).idBuf = s.idBuf := rfl
@[simp] theorem finish_strategy (s : State) : (finish s).strategy = s.strategy := rfl
@[simp] theorem finish_pix (s : State) : (finish s).pix = s.pix := rfl
@[simp] theorem finish_pkt (s : State) : (finish s).pkt = s.pkt := rfl
@[simp] theorem finish_inPos (s : State) : (finish s).inPos = s.inPos := rfl
@[simp] theorem finish_flags (s : State) : (finish s).flags = { s.flags with resultValid := true, pktOverrun := s.flags.pktOverrun || decide (0 < s.pkt.remain.toNat) } := rfl
@[simp] theorem finish_error (s : State) : (finish s).error = s.error := rfl
@[simp] theorem finish_refused (s : State) : (finish s).refused = s.refused := rfl
@[simp] theorem finish_out (s : State) : (finish s).out = s.out := rfl
@[simp] theorem finish_stream (s : State) : (finish s).stream = none := rfl
@[simp] theorem finish_maxPixelCount (s : State) : (finish s).maxPixelCount = s.maxPixelCount := rfl
@[simp] theorem finish_cmds (s : State) : (finish s).cmds = s.cmds := rfl
@[simp] theorem finish_resp (s : State) : (finish s).resp = some ⟨.ok, .none⟩ := rfl
@[simp] theorem finish_epoch (s : State) : (finish s).epoch = s.epoch := rfl

/-! ### openPacket -/

@[simp] theorem openPacket_phase (enc : Bool) (n : BitVec 7) (s : State) : (openPacket enc n s).phase = s.phase := rfl
@[simp] theorem openPacket_hdr (enc : Bool) (n : BitVec 7) (s : State) : (openPacket enc n s).hdr = s.hdr := rfl
@[simp] theorem openPacket_sizes (enc : Bool) (n : BitVec 7) (s : State) : (openPacket enc n s).sizes = s.sizes := rfl
@[simp] theorem openPacket_cmapCount (enc : Bool) (n : BitVec 7) (s : State) : (openPacket enc n s).cmapCount = s.cmapCount := rfl
@[simp] theorem openPacket_cmap (enc : Bool) (n : BitVec 7) (s : State) : (openPacket enc n s).cmap = s.cmap := rfl
@[simp] theorem openPacket_idBuf (enc : Bool) (n : BitVec 7) (s : State) : (openPacket enc n s).idBuf = s.idBuf := rfl
@[simp] theorem openPacket_strategy (enc : Bool) (n : BitVec 7) (s : State) : (openPacket enc n s).strategy = s.strategy := rfl
@[simp] theorem openPacket_pix (enc : Bool) (n : BitVec 7) (s : State) : (openPacket enc n s).pix = s.pix := rfl
@[simp] theorem openPacket_pkt (enc : Bool) (n : BitVec 7) (s : State) : (openPacket enc n s).pkt = ⟨enc, runLength n, runLength n, s.pkt.payload⟩ := rfl
@[simp] theorem openPacket_inPos (enc : Bool) (n : BitVec 7) (s : State) : (openPacket enc n s).inPos = s.inPos := rfl
@[simp] theorem openPacket_flags (enc : Bool) (n : BitVec 7) (s : State) : (openPacket enc n s).flags = s.flags := rfl
@[simp] theorem openPacket_error (enc : Bool) (n : BitVec 7) (s : State) : (openPacket enc n s).error = s.error := rfl
@[simp] theorem openPacket_refused (enc : Bool) (n : BitVec 7) (s : State) : (openPacket enc n s).refused = s.refused := rfl
@[simp] theorem openPacket_out (enc : Bool) (n : BitVec 7) (s : State) : (openPacket enc n s).out = s.out := rfl
@[simp] theorem openPacket_stream (enc : Bool) (n : BitVec 7) (s : State) : (openPacket enc n s).stream = s.stream := rfl
@[simp] theorem openPacket_maxPixelCount (enc : Bool) (n : BitVec 7) (s : State) : (openPacket enc n s).maxPixelCount = s.maxPixelCount := rfl
@[simp] theorem openPacket_cmds (enc : Bool) (n : BitVec 7) (s : State) : (openPacket enc n s).cmds = s.cmds := rfl
@[simp] theorem openPacket_resp (enc : Bool) (n : BitVec 7) (s : State) : (openPacket enc n s).resp = s.resp := rfl
@[simp] theorem openPacket_epoch (enc : Bool) (n : BitVec 7) (s : State) : (openPacket enc n s).epoch = s.epoch := rfl

end Sys2Proof.Machine
end

