-- ==== Sys2Proof/Laws/Pixels.lean ====
section
/-! SUPPORT. What the shared operations of the meanings do: the bytes an emit writes, choosing a strategy, a result
accessor, a run of several steps; and that State.reset's memories are canonical. -/

namespace Sys2Proof.Machine

/-- The RGB bytes of a pixel. -/
theorem emitColor_read_rgb (a r g b : Byte) (s : State) (x : Nat) :
    Memory.read (emitColor a r g b s).out.rgb x =
      if x = 3 * s.pix.toNat then some r
      else if x = 3 * s.pix.toNat + 1 then some g
      else if x = 3 * s.pix.toNat + 2 then some b
      else Memory.read s.out.rgb x := by
  show Memory.read (Memory.writes s.out.rgb (3 * s.pix.toNat) [r, g, b]) x = _
  simp only [Memory.writes, Memory.read_write]
  split_ifs <;> first | rfl | omega

/-- The ARGB bytes of a pixel. -/
theorem emitColor_read_argb (a r g b : Byte) (s : State) (x : Nat) :
    Memory.read (emitColor a r g b s).out.argb x =
      if x = 4 * s.pix.toNat then some a
      else if x = 4 * s.pix.toNat + 1 then some r
      else if x = 4 * s.pix.toNat + 2 then some g
      else if x = 4 * s.pix.toNat + 3 then some b
      else Memory.read s.out.argb x := by
  show Memory.read (Memory.writes s.out.argb (4 * s.pix.toNat) [a, r, g, b]) x = _
  simp only [Memory.writes, Memory.read_write]
  split_ifs <;> first | rfl | omega

/-- The colours of a pixel leave OUT_IDX. -/
theorem emitColor_idx (a r g b : Byte) (s : State) : (emitColor a r g b s).out.idx = s.out.idx := rfl

/-- The index byte of a pixel. -/
theorem emitIndex_read_idx (i : Byte) (s : State) (x : Nat) :
    Memory.read (emitIndex i s).out.idx x = if x = s.pix.toNat then some i else Memory.read s.out.idx x := by
  show Memory.read (Memory.write s.out.idx (1 * s.pix.toNat) i) x = _
  rw [Memory.read_write, Nat.one_mul]

/-- The index of a pixel leaves the colours. -/
theorem emitIndex_colors (i : Byte) (s : State) :
    (emitIndex i s).out.rgb = s.out.rgb ∧ (emitIndex i s).out.argb = s.out.argb := ⟨rfl, rfl⟩

/-- An index in range: the pixel's bytes and the loop's tail (R155, R219). -/
theorem emitIndexed_inRange (idx : Byte) (s : State) (h : idx.toNat < s.cmapCount.toNat) :
    emitIndexed idx s = completePixel (emitColor Config.synthAlpha (entryRed (cmapRead idx.toNat s))
      (entryGreen (cmapRead idx.toNat s)) (entryBlue (cmapRead idx.toNat s)) (emitIndex idx s)) := by
  simp [emitIndexed, Nat.not_le.mpr h]

/-- An index out of range: the failure path, before any write (R155, R156). -/
theorem emitIndexed_outOfRange (idx : Byte) (s : State) (h : s.cmapCount.toNat ≤ idx.toNat) :
    emitIndexed idx s = raise .indexOutOfRange s := by simp [emitIndexed, h]

/-- A write to the colormap keeps it canonical. -/
theorem cmapWrite_wf (k : Nat) (e : BitVec 24) (s : State) (h : Memory.wf s.cmap = true) :
    Memory.wf (cmapWrite k e s).cmap = true := Memory.wf_write _ _ _ h

/-- Writes to an output buffer keep every buffer canonical. -/
theorem outWrites_wf (sp sp' : Space) (a : Nat) (vs : List Byte) (s : State)
    (h : ∀ x, Memory.wf (s.out.get x) = true) : Memory.wf ((outWrites sp a vs s).out.get sp') = true := by
  have hw : Memory.wf (Memory.writes (s.out.get sp) a vs) = true := Memory.wf_writes _ _ _ (h sp)
  cases sp <;> cases sp' <;> first | exact hw | exact h .idx | exact h .rgb | exact h .argb

/-- A strategy whose image fits enters LOAD_PIXEL. -/
theorem selectStrategy_fits (st : Strategy) (s : State) (h : s.sizes.pixelCount.toNat ≤ s.maxPixelCount) :
    selectStrategy st s = { setIdxPresent st { s with strategy := st } with
      pix := 0, pkt := zeroPacket, phase := .loadPixel } := by
  simp [selectStrategy, Nat.not_lt.mpr h]

/-- A strategy whose image does not fit fails. -/
theorem selectStrategy_tooLarge (st : Strategy) (s : State) (h : s.maxPixelCount < s.sizes.pixelCount.toNat) :
    selectStrategy st s = raise .capacity (setIdxPresent st { s with strategy := st }) := by
  simp [selectStrategy, h]

/-- An accessor in DECODED answers its data. -/
theorem accessor_decoded (d : Data) (s : State) (h : s.phase = .decoded) (hv : s.flags.resultValid = true) :
    accessor d s = reply .ok d s := by simp [accessor, h, hv]

/-- An accessor in any other phase is refused. -/
theorem accessor_refused (d : Data) (s : State) (h : s.phase ≠ .decoded) : accessor d s = refuse s := by
  simp [accessor, h]

/-- A run goes on from the state its first steps reach. -/
theorem run_add {M : Host.Core} (k l : Nat) {s u : M.State} (h : M.run k s = .next u) :
    M.run (k + l) s = M.run l u := by
  induction k generalizing s with
  | zero => cases h; rw [Nat.zero_add]
  | succ k ih =>
    rw [Nat.succ_add]
    simp only [Host.Core.run] at h ⊢
    split at h
    · exact ih h
    · cases h
    · cases h

/-- A run of one step. -/
theorem run_one {M : Host.Core} {s u : M.State} (h : M.step s = .next u) : M.run 1 s = .next u := by
  simp [Host.Core.run, h]

/-- The memories after reset are canonical. -/
theorem reset_memories_wf :
    Memory.wf State.reset.cmap = true ∧ Memory.wf State.reset.out.idx = true ∧
      Memory.wf State.reset.out.rgb = true ∧ Memory.wf State.reset.out.argb = true := ⟨rfl, rfl, rfl, rfl⟩

end Sys2Proof.Machine
end

