-- ==== Sys2Proof/Laws/Step.lean ====
section
/-! SUPPORT. What each shared operation of the step can answer, said once: the stream read, the fetch of a unit, and
`StepCase`, the list of everything one step can do. -/

namespace Sys2Proof.Machine

/-- Bytes come back from StreamRead only when the attached stream holds them; only IN_POS moves (R75). -/
theorem streamRead_bytes {n : Nat} {s t : State} {p : List Byte} (h : streamRead n s = .bytes p t) :
    ∃ st, s.stream = some st ∧ s.inPos.toNat + n ≤ st.bytes.length ∧
      p = (st.bytes.drop s.inPos.toNat).take n ∧ t = { s with inPos := s.inPos + BitVec.ofNat 64 n } := by
  unfold streamRead at h
  split at h
  · cases h
  · rename_i st hst
    split at h
    · rename_i hl; cases h; exact ⟨st, hst, hl, rfl, rfl⟩
    · split at h <;> cases h

/-- The bytes of a stream read are as many as were asked for. -/
theorem streamRead_length {n : Nat} {s t : State} {p : List Byte} (h : streamRead n s = .bytes p t) :
    p.length = n := by
  obtain ⟨st, -, hl, rfl, -⟩ := streamRead_bytes h
  simp only [List.length_take, List.length_drop]; omega

/-- SHORT comes back only at the end of the attached stream, which it consumes (R75, D11). -/
theorem streamRead_short {n : Nat} {s t : State} (h : streamRead n s = .short t) :
    ∃ st, s.stream = some st ∧ st.bytes.length < s.inPos.toNat + n ∧ st.ended = true ∧
      t = { s with inPos := BitVec.ofNat 64 st.bytes.length } := by
  unfold streamRead at h
  split at h
  · cases h
  · rename_i st hst
    split at h
    · cases h
    · rename_i hl
      split at h
      · rename_i he; cases h; exact ⟨st, hst, by omega, he, rfl⟩
      · cases h

/-- No answer: no stream, or a stream that neither holds the bytes nor ends (R77). -/
theorem streamRead_stop {n : Nat} {s : State} {f : Fault} (h : streamRead n s = .stop f) :
    (s.stream = none ∧ f = .noStream) ∨
      ∃ st, s.stream = some st ∧ st.bytes.length < s.inPos.toNat + n ∧ st.ended = false ∧ f = .streamStall := by
  unfold streamRead at h
  split at h
  · rename_i hn; cases h; exact .inl ⟨hn, rfl⟩
  · rename_i st hst
    split at h
    · cases h
    · rename_i hl
      split at h
      · cases h
      · rename_i he; cases h; exact .inr ⟨st, hst, by omega, by simpa using he, rfl⟩

/-- A fetch from the stream gives the unit read, the failure path of a short read, or no answer. -/
theorem fetchStream_cases (slot : Slot) (n : Nat) (s : State) :
    (∃ p t, streamRead n s = .bytes p t ∧ fetchStream slot n s = .unit (plainWord slot p) t) ∨
      (∃ t, streamRead n s = .short t ∧ fetchStream slot n s = .seq (raiseShort t)) ∨
      (∃ f, streamRead n s = .stop f ∧ fetchStream slot n s = .stop f) := by
  unfold fetchStream
  cases h : streamRead n s with
  | bytes p t => exact .inl ⟨p, t, rfl, rfl⟩
  | short t => exact .inr (.inl ⟨t, rfl, rfl⟩)
  | stop f => exact .inr (.inr ⟨f, rfl, rfl⟩)

/-- A unit of bytes decodes as its slot says. -/
theorem decode_plain {slot : Slot} (h : slot ≠ .hostcmd8) (bs : List Byte) :
    decode (plainWord slot bs) = decodeBytes slot bs := by
  cases slot <;> simp_all [decode, plainWord]

/-- A list of a given length, taken apart. -/
theorem list_length_one {l : List Byte} (h : l.length = 1) : ∃ a, l = [a] := List.length_eq_one_iff.mp h

theorem list_length_three {l : List Byte} (h : l.length = 3) : ∃ a b c, l = [a, b, c] :=
  List.length_eq_three.mp h

theorem list_length_four {l : List Byte} (h : l.length = 4) : ∃ a b c d, l = [a, b, c, d] := by
  match l, h with
  | [a, b, c, d], _ => exact ⟨a, b, c, d, rfl⟩

theorem leBytes_length (n : Nat) (v : BitVec 32) : (leBytes n v).length = n := by
  induction n generalizing v with
  | zero => rfl
  | succ n ih => simp [leBytes, ih]

/-- Eighteen bytes are a header record. -/
theorem decodeHeader_of_length {l : List Byte} (h : l.length = 18) : ∃ hd, decodeHeader l = some hd := by
  match l, h with
  | [_, _, _, _, _, _, _, _, _, _, _, _, _, _, _, _, _, _], _ => exact ⟨_, rfl⟩

/-- Every dispatch key is one of six strategies or unsupported. -/
theorem decodeKey_cases (k : Half) :
    (∃ st, st ≠ Strategy.none ∧ ∀ s, exec (decodeKey k) s = .next (selectStrategy st s)) ∨
      ∀ s, exec (decodeKey k) s = .next (raise .unsupportedFormat s) := by
  unfold decodeKey
  split
  · exact .inl ⟨.idxRaw8, by decide, fun _ => rfl⟩
  split
  · exact .inl ⟨.tcRaw24, by decide, fun _ => rfl⟩
  split
  · exact .inl ⟨.tcRaw32, by decide, fun _ => rfl⟩
  split
  · exact .inl ⟨.idxRle8, by decide, fun _ => rfl⟩
  split
  · exact .inl ⟨.tcRle24, by decide, fun _ => rfl⟩
  split
  · exact .inl ⟨.tcRle32, by decide, fun _ => rfl⟩
  · exact .inr fun _ => rfl

/-- Where the payload of pixel PIX comes from, and the state after it: the latched payload of a RUN packet, or
the next `p` bytes of the stream (R175, R196). -/
def PayloadFrom (p : Nat) (s u : State) : Prop :=
  (s.strategy.isRle = true ∧ s.pkt.remain ≠ 0 ∧ s.pkt.enc = true ∧ u = s) ∨
    ((s.strategy.isRle = true → s.pkt.remain ≠ 0 ∧ s.pkt.enc = false) ∧
      ∃ st, s.stream = some st ∧ s.inPos.toNat + p ≤ st.bytes.length ∧
        u = { s with inPos := s.inPos + BitVec.ofNat 64 p })

/-- A read at the end of the stream, with the phases and unit lengths that read (R83, R262). -/
def ShortAt (n : Nat) (s : State) (L : Nat) : Prop :=
  n ≤ 255 ∧ (s.phase = .loadHdr ∨ s.phase = .loadId ∨ s.phase = .loadCmap ∨ s.phase = .loadPixel) ∧
    ∃ st, s.stream = some st ∧ st.bytes.length < s.inPos.toNat + n ∧ st.ended = true ∧ L = st.bytes.length

/-- Everything one step can do, with the conditions under which it does it. -/
inductive StepCase (s : State) : State → Prop where
  | idle (hp : s.phase.takesCommands = true) (hc : s.cmds = []) : StepCase s s
  | reset (c : HostCmd) (rest : List HostCmd) (hp : s.phase.takesCommands = true) (hc : s.cmds = c :: rest)
      (hcode : c.code = 0x00) :
      StepCase s (reply .ok .none
        { State.reset with cmds := rest, maxPixelCount := s.maxPixelCount, epoch := s.epoch + 1 })
  | openFails (c : HostCmd) (rest : List HostCmd) (hp : s.phase = .unopened) (hc : s.cmds = c :: rest)
      (hcode : c.code = 0x01) (he : s.error.code = .none) :
      StepCase s (reply (.fail .ioError) .none
        { s with cmds := rest, error := { s.error with code := .ioError, phase := .unopened } })
  | opens (c : HostCmd) (rest : List HostCmd) (st : Stream) (hp : s.phase = .unopened) (hc : s.cmds = c :: rest)
      (hcode : c.code = 0x01) (he : s.error.code = .none) :
      StepCase s (reply .ok .none { s with cmds := rest, stream := some st, inPos := 0, phase := .opened })
  | load (c : HostCmd) (rest : List HostCmd) (hp : s.phase = .opened) (hc : s.cmds = c :: rest)
      (hcode : c.code = 0x02) : StepCase s { s with cmds := rest, phase := .loadHdr, resp := none }
  | answer (c : HostCmd) (rest : List HostCmd) (d : Data) (hp : s.phase.takesCommands = true)
      (hc : s.cmds = c :: rest) : StepCase s (reply .ok d { s with cmds := rest })
  | refused (c : HostCmd) (rest : List HostCmd) (hp : s.phase.takesCommands = true) (hc : s.cmds = c :: rest) :
      StepCase s (refuse { s with cmds := rest })
  | short (n L : Nat) (h : ShortAt n s L) : StepCase s (raiseShort { s with inPos := BitVec.ofNat 64 L })
  | header (st : Stream) (h : Header) (hp : s.phase = .loadHdr) (hst : s.stream = some st)
      (hl : s.inPos.toNat + 18 ≤ st.bytes.length)
      (hd : decodeHeader ((st.bytes.drop s.inPos.toNat).take 18) = some h) :
      StepCase s { s with inPos := s.inPos + 18, hdr := h, sizes := sizesOf h, phase := .loadId }
  | imageId (st : Stream) (hp : s.phase = .loadId) (hst : s.stream = some st)
      (hl : s.inPos.toNat + s.hdr.idLength.toNat ≤ st.bytes.length) :
      StepCase s { s with
        inPos := s.inPos + BitVec.ofNat 64 s.hdr.idLength.toNat
        idBuf := (st.bytes.drop s.inPos.toNat).take s.hdr.idLength.toNat
        phase := .loadCmap }
  | cmapTooLarge (hp : s.phase = .loadCmap) (hn : 256 < (cmapEntries s.hdr).toNat) :
      StepCase s (raise .cmapSize s)
  | cmapEntry (st : Stream) (e : BitVec 24) (hp : s.phase = .loadCmap) (hn : (cmapEntries s.hdr).toNat ≤ 256)
      (hk : cmapEntryAt s.inPos s.hdr < (cmapEntries s.hdr).toNat) (hst : s.stream = some st)
      (hl : s.inPos.toNat + 3 ≤ st.bytes.length) :
      StepCase s { cmapWrite (cmapEntryAt s.inPos s.hdr) e s with inPos := s.inPos + 3 }
  | cmapDone (hp : s.phase = .loadCmap) (hn : (cmapEntries s.hdr).toNat ≤ 256)
      (hk : (cmapEntries s.hdr).toNat ≤ cmapEntryAt s.inPos s.hdr) :
      StepCase s { s with cmapCount := (cmapEntries s.hdr).setWidth 9, phase := .loadDispatch }
  | select (st : Strategy) (hp : s.phase = .loadDispatch) (hs : st ≠ .none) : StepCase s (selectStrategy st s)
  | unsupported (hp : s.phase = .loadDispatch) : StepCase s (raise .unsupportedFormat s)
  | rawPacket (n : BitVec 7) (st : Stream) (hp : s.phase = .loadPixel) (hs : s.strategy.isRle = true)
      (hi : s.pix.toNat < s.sizes.pixelCount.toNat) (hr : s.pkt.remain = 0)
      (hst : s.stream = some st) (hl : s.inPos.toNat + 1 ≤ st.bytes.length) :
      StepCase s (openPacket false n { s with inPos := s.inPos + 1 })
  | runPacket (n : BitVec 7) (st : Stream) (sl : Slot) (p : Nat) (v : BitVec 32) (hp : s.phase = .loadPixel)
      (hs : s.strategy.isRle = true) (hpay : s.strategy.payload = some (sl, p))
      (hi : s.pix.toNat < s.sizes.pixelCount.toNat) (hr : s.pkt.remain = 0)
      (hst : s.stream = some st) (hl : s.inPos.toNat + 1 ≤ st.bytes.length)
      (hl2 : (s.inPos + 1).toNat + p ≤ st.bytes.length) :
      StepCase s { s with
        inPos := s.inPos + 1 + BitVec.ofNat 64 p
        pkt := ⟨true, runLength n, runLength n, v⟩ }
  | runShort (n : BitVec 7) (st : Stream) (sl : Slot) (p : Nat) (hp : s.phase = .loadPixel)
      (hs : s.strategy.isRle = true) (hpay : s.strategy.payload = some (sl, p))
      (hi : s.pix.toNat < s.sizes.pixelCount.toNat) (hr : s.pkt.remain = 0)
      (hst : s.stream = some st) (hl : s.inPos.toNat + 1 ≤ st.bytes.length)
      (hl2 : st.bytes.length < (s.inPos + 1).toNat + p) (he : st.ended = true) :
      StepCase s (raise .truncatedData
        { openPacket true n s with inPos := BitVec.ofNat 64 st.bytes.length })
  | color (u : State) (sl : Slot) (p : Nat) (a r g b : Byte) (hp : s.phase = .loadPixel)
      (hpay : s.strategy.payload = some (sl, p)) (hsl : sl ≠ .px8)
      (hi : s.pix.toNat < s.sizes.pixelCount.toNat) (hu : PayloadFrom p s u) :
      StepCase s (completePixel (emitColor a r g b u))
  | lookupFails (u : State) (idx : Byte) (hp : s.phase = .loadPixel) (hpay : s.strategy.payload = some (.px8, 1))
      (hi : s.pix.toNat < s.sizes.pixelCount.toNat) (hu : PayloadFrom 1 s u)
      (hc : s.cmapCount.toNat ≤ idx.toNat) : StepCase s (raise .indexOutOfRange u)
  | lookup (u : State) (idx a r g b : Byte) (hp : s.phase = .loadPixel)
      (hpay : s.strategy.payload = some (.px8, 1)) (hi : s.pix.toNat < s.sizes.pixelCount.toNat)
      (hu : PayloadFrom 1 s u) (hc : idx.toNat < s.cmapCount.toNat) :
      StepCase s (completePixel (emitColor a r g b (emitIndex idx u)))
  | finish (hp : s.phase = .loadPixel) (hs : s.strategy ≠ .none)
      (hi : s.sizes.pixelCount.toNat ≤ s.pix.toNat) : StepCase s (finish s)

/-- The filled entries depend on PHASE, the header, the colormap and, in LOAD_CMAP, on IN_POS. -/
theorem filledEntries_congr {s t : State} (hp : t.phase = s.phase) (hh : t.hdr = s.hdr) (hc : t.cmap = s.cmap)
    (hi : s.phase = .loadCmap → t.inPos = s.inPos) : filledEntries t = filledEntries s := by
  unfold filledEntries
  rw [hp, hh, hc]
  cases hs : s.phase <;> simp
  rw [hi hs]

/-- Before LOAD_CMAP none is filled. -/
theorem filledEntries_early {s : State}
    (h : s.phase = .unopened ∨ s.phase = .opened ∨ s.phase = .loadHdr ∨ s.phase = .loadId) :
    filledEntries s = 0 := by rcases h with h | h | h | h <;> simp [filledEntries, h]

/-- After LOAD_CMAP all that are declared are filled. -/
theorem filledEntries_done {s : State} (h : s.phase.cmapDone = true) :
    filledEntries s = (cmapEntries s.hdr).toNat := by
  cases hp : s.phase <;> simp_all [filledEntries, Phase.cmapDone]

/-- The entry at 18 + HDR_ID_LENGTH + 3*k is entry k (R117). -/
theorem cmapEntryAt_of_pos {pos : BitVec 64} {h : Header} {k : Nat}
    (hp : pos.toNat = 18 + h.idLength.toNat + 3 * k) : cmapEntryAt pos h = k := by
  have := h.idLength.isLt
  have := pos.isLt
  unfold cmapEntryAt
  rw [BitVec.toNat_sub, BitVec.toNat_ofNat]
  omega

/-- After an entry of a colormap of at most 256 comes the next one (R150: in increasing k). -/
theorem cmapEntryAt_add {pos : BitVec 64} {h : Header} (hk : cmapEntryAt pos h < 256) :
    cmapEntryAt (pos + 3) h = cmapEntryAt pos h + 1 := by
  unfold cmapEntryAt at *
  rw [show pos + 3 - BitVec.ofNat 64 (18 + h.idLength.toNat) = pos - BitVec.ofNat 64 (18 + h.idLength.toNat) + 3 by
    ring]
  rw [BitVec.toNat_add, show (3 : BitVec 64).toNat = 3 from rfl]
  omega

/-- A step from a fetched unit that decodes. -/
theorem step_unit {s u : State} {w : CodeWord} {i : Instr} (hf : fetch s = .unit w u) (hd : decode w = .ok i) :
    step s = exec i u := by simp [step, hf, hd]

theorem step_seq {s t : State} (hf : fetch s = .seq t) : step s = .next t := by simp [step, hf]

theorem step_stop {s : State} {f : Fault} (hf : fetch s = .stop f) : step s = .fault f := by simp [step, hf]

/-- What a step can do with a pending host command. -/
theorem stepCase_command {s t : State} (hp : s.phase.takesCommands = true) (hf : fetch s = fetchCommand s)
    (h : step s = .next t) : StepCase s t := by
  cases hc : s.cmds with
  | nil =>
    have hf : fetch s = .seq s := by rw [hf]; simp [fetchCommand, hc]
    rw [step_seq hf] at h; cases h; exact .idle hp hc
  | cons c rest =>
    have hf : fetch s = .unit ⟨.hostcmd8, [c.code], c.stream⟩ { s with cmds := rest } := by
      rw [hf]; simp [fetchCommand, hc]
    simp only [step, hf, decode, decodeCmd] at h
    split at h
    · rename_i i hd
      split at hd
      · rename_i hcode; cases hd; cases h; exact .reset c rest hp hc hcode
      split at hd
      · rename_i hcode; cases hd
        simp only [exec, execCmdOpen] at h
        split at h
        · rename_i ho
          cases hst : c.stream with
          | none => rw [hst] at h; cases h; exact .openFails c rest ho.1 hc hcode ho.2
          | some st => rw [hst] at h; cases h; exact .opens c rest st ho.1 hc hcode ho.2
        · cases h; exact .refused c rest hp hc
      split at hd
      · rename_i hcode; cases hd
        simp only [exec, execCmdLoad] at h
        split at h
        · rename_i ho; cases h; exact .load c rest ho hc hcode
        · cases h; exact .refused c rest hp hc
      have key : ∀ d, accessor d { s with cmds := rest } = t → StepCase s t := by
        intro d hd
        unfold accessor at hd
        split at hd <;> subst hd
        · exact .answer c rest d hp hc
        · exact .refused c rest hp hc
      split at hd
      · cases hd; cases h; exact key _ rfl
      split at hd
      · cases hd; cases h; exact key _ rfl
      split at hd
      · cases hd; cases h; exact key _ rfl
      split at hd
      · cases hd; cases h; exact key _ rfl
      split at hd
      · cases hd; cases h; exact key _ rfl
      split at hd
      · cases hd; cases h; exact .answer c rest _ hp hc
      · cases hd
    · rename_i e hd
      have he : e = .reservedCommand c.code := by
        repeat' split at hd
        all_goals first | cases hd; done | (cases hd; rfl)
      subst he; cases h; exact .refused c rest hp hc

/-- The bytes a StreamRead gives, or the failure path, as a step. -/
theorem step_fetchStream {s t : State} {slot : Slot} {n : Nat} (hn : n ≤ 255) (hslot : slot ≠ .hostcmd8)
    (hp : s.phase = .loadHdr ∨ s.phase = .loadId ∨ s.phase = .loadCmap ∨ s.phase = .loadPixel)
    (hf : fetch s = fetchStream slot n s) (h : step s = .next t) :
    StepCase s t ∨ ∃ st p, s.stream = some st ∧ s.inPos.toNat + n ≤ st.bytes.length ∧ p.length = n ∧
      p = (st.bytes.drop s.inPos.toNat).take n ∧
      ∀ i, decodeBytes slot p = .ok i → exec i { s with inPos := s.inPos + BitVec.ofNat 64 n } = .next t := by
  rcases fetchStream_cases slot n s with ⟨p, u, hr, hfs⟩ | ⟨u, hr, hfs⟩ | ⟨f, hr, hfs⟩
  · obtain ⟨st, hst, hl, rfl, rfl⟩ := streamRead_bytes hr
    refine .inr ⟨st, _, hst, hl, streamRead_length hr, rfl, fun i hi => ?_⟩
    rwa [step_unit (hf.trans hfs) ((decode_plain hslot _).trans hi)] at h
  · obtain ⟨st, hst, hl, he, rfl⟩ := streamRead_short hr
    rw [step_seq (hf.trans hfs)] at h; cases h
    exact .inl (.short n _ ⟨hn, hp, st, hst, hl, he, rfl⟩)
  · rw [step_stop (hf.trans hfs)] at h; cases h

/-- The strategies by payload. -/
theorem payload_cases {st : Strategy} {sl : Slot} {p : Nat} (h : st.payload = some (sl, p)) :
    (sl = .px8 ∧ p = 1) ∨ (sl = .px24 ∧ p = 3) ∨ (sl = .px32 ∧ p = 4) := by
  cases st <;> simp_all [Strategy.payload]

theorem payload_ne_none {st : Strategy} {x : Slot × Nat} (h : st.payload = some x) : st ≠ .none := by
  rintro rfl; cases h

/-- Where the sequencer is about to read the stream, it fetches the unit `nextRead` names, in a phase that reads (R39,
R83). -/
theorem fetch_of_nextRead {s : State} {sl : Slot} {n : Nat} (h : nextRead s = some (sl, n)) :
    fetch s = fetchStream sl n s ∧
      (s.phase = .loadHdr ∨ s.phase = .loadId ∨ s.phase = .loadCmap ∨ s.phase = .loadPixel) := by
  unfold nextRead at h
  split at h
  case h_1 hp => cases h; exact ⟨by simp [fetch, hp, Config.hdrBytes], .inl hp⟩
  case h_2 hp => cases h; exact ⟨by simp [fetch, hp], .inr (.inl hp)⟩
  case h_3 hp =>
    refine ⟨?_, .inr (.inr (.inl hp))⟩
    split at h
    · rename_i hn; cases h
      simp [fetch, hp, fetchCmap, Config.cmapEntriesMax, Config.cmapEntryBytes, hn, Nat.not_lt.mpr hn.1]
    · cases h
  case h_4 hp =>
    refine ⟨?_, .inr (.inr (.inr hp))⟩
    split at h
    · cases h
    · rename_i sl' p hpay
      split at h
      · cases h
      · rename_i hc
        have hf : fetch s = fetchPayload sl' p s := by simp [fetch, hp, fetchPixel, hpay, Nat.not_le.mp hc]
        rw [hf, fetchPayload]
        split_ifs at h ⊢ <;> simp_all
  all_goals cases h

/-- What a payload does, by its slot. -/
theorem exec_payload {s u t : State} {sl : Slot} {p : Nat} {bs : List Byte} (hp : s.phase = .loadPixel)
    (hpay : s.strategy.payload = some (sl, p)) (hi : s.pix.toNat < s.sizes.pixelCount.toNat)
    (hu : PayloadFrom p s u) (hlen : bs.length = p)
    (h : ∀ i, decodeBytes sl bs = .ok i → exec i u = .next t) : StepCase s t := by
  rcases payload_cases hpay with ⟨rfl, rfl⟩ | ⟨rfl, rfl⟩ | ⟨rfl, rfl⟩
  · obtain ⟨x, rfl⟩ := list_length_one hlen
    have h := h _ rfl
    have hu' : u.cmapCount = s.cmapCount := by rcases hu with ⟨-, -, -, rfl⟩ | ⟨-, st, -, -, rfl⟩ <;> rfl
    rcases Nat.lt_or_ge x.toNat s.cmapCount.toNat with hc | hc
    · simp only [exec, execUnpack8, emitIndexed_inRange x u (hu' ▸ hc)] at h; cases h
      exact .lookup u x _ _ _ _ hp hpay hi hu hc
    · simp only [exec, execUnpack8, emitIndexed_outOfRange x u (hu' ▸ hc)] at h; cases h
      exact .lookupFails u x hp hpay hi hu hc
  · obtain ⟨b, g, r, rfl⟩ := list_length_three hlen
    have h := h _ rfl; cases h
    exact .color u _ _ _ r g b hp hpay (by decide) hi hu
  · obtain ⟨b, g, r, a, rfl⟩ := list_length_four hlen
    have h := h _ rfl; cases h
    exact .color u _ _ a r g b hp hpay (by decide) hi hu

/-- What a step can do with a payload slot. -/
theorem stepCase_payload {s t : State} {sl : Slot} {p : Nat} (hp : s.phase = .loadPixel)
    (hpay : s.strategy.payload = some (sl, p)) (hi : s.pix.toNat < s.sizes.pixelCount.toNat)
    (hf : fetch s = fetchPayload sl p s) (h : step s = .next t) : StepCase s t := by
  have hp8 : p ≤ 255 ∧ sl ≠ .hostcmd8 := by
    rcases payload_cases hpay with ⟨rfl, rfl⟩ | ⟨rfl, rfl⟩ | ⟨rfl, rfl⟩ <;> decide
  have fromStream : (s.strategy.isRle = true → s.pkt.remain ≠ 0 ∧ s.pkt.enc = false) →
      fetch s = fetchStream sl p s → StepCase s t := by
    intro hraw hf
    rcases step_fetchStream hp8.1 hp8.2 (by simp [hp]) hf h with hc | ⟨st, bs, hst, hl, hlen, -, hx⟩
    · exact hc
    · exact exec_payload hp hpay hi (.inr ⟨hraw, st, hst, hl, rfl⟩) hlen hx
  unfold fetchPayload at hf
  split at hf
  · rename_i hrle
    split at hf
    · rename_i hrem
      rcases step_fetchStream (by decide) (by decide) (by simp [hp]) hf h with hc | ⟨st, bs, hst, hl, hlen, -, hx⟩
      · exact hc
      · obtain ⟨b, rfl⟩ := list_length_one hlen
        have hx := hx _ rfl
        unfold decodeRleHdr at hx
        split at hx
        · simp only [exec, execRunPkt, hpay] at hx
          split at hx
          · rename_i bs u hr
            obtain ⟨st', hst', hl', rfl, rfl⟩ := streamRead_bytes hr
            simp only [openPacket_stream, openPacket_inPos, hst, Option.some.injEq] at hst' hl'
            subst hst'; cases hx
            exact .runPacket _ st sl p _ hp hrle hpay hi hrem hst hl hl'
          · rename_i u hr
            obtain ⟨st', hst', hl', he', rfl⟩ := streamRead_short hr
            simp only [openPacket_stream, openPacket_inPos, hst, Option.some.injEq] at hst' hl'
            subst hst'; cases hx
            have := StepCase.runShort (b.extractLsb' 0 7) st sl p hp hrle hpay hi hrem hst hl hl' he'
            simpa [raiseShort, shortError, openPacket, hp] using this
          · cases hx
        · cases hx
          exact .rawPacket _ st hp hrle hi hrem hst hl
    · rename_i hrem
      split at hf
      · rename_i henc
        refine exec_payload hp hpay hi (.inl ⟨hrle, hrem, henc, rfl⟩) (leBytes_length p s.pkt.payload)
          fun i hd => ?_
        rwa [step_unit hf ((decode_plain hp8.2 _).trans hd)] at h
      · rename_i henc
        exact fromStream (fun _ => ⟨hrem, by simpa using henc⟩) hf
  · rename_i hrle
    exact fromStream (fun hx => absurd hx hrle) hf

/-- Everything one step can do. -/
theorem stepCase_of_step {s t : State} (h : step s = .next t) : StepCase s t := by
  cases hp : s.phase with
  | unopened => exact stepCase_command (by simp [hp, Phase.takesCommands]) (by simp [fetch, hp]) h
  | opened => exact stepCase_command (by simp [hp, Phase.takesCommands]) (by simp [fetch, hp]) h
  | decoded => exact stepCase_command (by simp [hp, Phase.takesCommands]) (by simp [fetch, hp]) h
  | closed => exact stepCase_command (by simp [hp, Phase.takesCommands]) (by simp [fetch, hp]) h
  | loadHdr =>
    rcases step_fetchStream (slot := .hdr18) (n := 18) (by decide) (by decide) (by simp [hp])
      (by simp [fetch, hp, Config.hdrBytes]) h with hc | ⟨st, bs, hst, hl, hlen, hbs, hx⟩
    · exact hc
    · obtain ⟨hd, hhd⟩ := decodeHeader_of_length hlen
      have hx := hx (.hdrCapture hd) (by simp [decodeBytes, hhd])
      cases hx
      exact .header st hd hp hst hl (hbs ▸ hhd)
  | loadId =>
    have hid : s.hdr.idLength.toNat ≤ 255 := by have := s.hdr.idLength.isLt; omega
    rcases step_fetchStream (slot := .idField) hid (by decide) (by simp [hp]) (by simp [fetch, hp]) h
      with hc | ⟨st, bs, hst, hl, hlen, hbs, hx⟩
    · exact hc
    · have hx := hx (.idConsume bs) (by simp [decodeBytes, hlen, hid])
      subst hbs; cases hx
      exact .imageId st hp hst hl
  | loadCmap =>
    by_cases hn : 256 < (cmapEntries s.hdr).toNat
    · have hf : fetch s = .seq (raise .cmapSize s) := by simp [fetch, hp, fetchCmap, Config.cmapEntriesMax, hn]
      rw [step_seq hf] at h; cases h; exact .cmapTooLarge hp hn
    · by_cases hk : cmapEntryAt s.inPos s.hdr < (cmapEntries s.hdr).toNat
      · have hf : fetch s = fetchStream .cmape24 3 s := by
          simp [fetch, hp, fetchCmap, Config.cmapEntriesMax, Config.cmapEntryBytes, hn, hk]
        rcases step_fetchStream (by decide) (by decide) (by simp [hp]) hf h with hc | ⟨st, bs, hst, hl, hlen, -, hx⟩
        · exact hc
        · obtain ⟨b, g, r, rfl⟩ := list_length_three hlen
          have hx := hx _ rfl
          simp only [exec, execCmapFill, BitVec.ofNat_eq_ofNat, BitVec.add_sub_cancel] at hx; cases hx
          exact .cmapEntry st (packEntry b g r) hp (by omega) hk hst hl
      · have hf : fetch s = .seq { s with cmapCount := (cmapEntries s.hdr).setWidth 9, phase := .loadDispatch } := by
          simp [fetch, hp, fetchCmap, Config.cmapEntriesMax, hn, hk]
        rw [step_seq hf] at h; cases h; exact .cmapDone hp (by omega) (by omega)
  | loadDispatch =>
    have hf : fetch s = .unit (plainWord .dkey16 (keyBytes s.hdr)) s := by simp [fetch, hp]
    have hd : decode (plainWord .dkey16 (keyBytes s.hdr)) =
        .ok (decodeKey (le16 s.hdr.pixelDepth s.hdr.imageType)) := by
      rw [decode_plain (by decide)]; rfl
    rw [step_unit hf hd] at h
    rcases decodeKey_cases (le16 s.hdr.pixelDepth s.hdr.imageType) with ⟨st, hne, hx⟩ | hx
    · rw [hx] at h; cases h; exact .select st hp hne
    · rw [hx] at h; cases h; exact .unsupported hp
  | loadPixel =>
    have hf : fetch s = fetchPixel s := by simp [fetch, hp]
    unfold fetchPixel at hf
    split at hf
    · rw [step_stop hf] at h; cases h
    · rename_i sl p hpay
      split at hf
      · rename_i hi
        exact stepCase_payload hp hpay hi hf h
      · rename_i hi
        rw [step_seq hf] at h; cases h
        exact .finish hp (payload_ne_none hpay) (by omega)

end Sys2Proof.Machine
end

