-- ==== Sys2Proof/Tests/Slice0.lean ====
section
/-! SUPPORT. The model's own tests. Expected results are from 95_test_vectors.md and from the examples of the rules
named; the witnesses show that the hypotheses of each statement of Obligations.lean can be met together. -/

namespace Sys2Proof.Tests

open Sys2Proof Sys2Proof.Machine

/-! ### Helpers -/

/-- A property of the next state of a step. -/
def after (o : Host.Outcome State Fault Refusal) (p : State → Bool) : Bool :=
  match o with
  | .next t => p t
  | .fault _ => false
  | .refused _ => false

/-- A stream that holds these bytes and then ends. -/
def str (bytes : List Byte) : Option Stream := some ⟨bytes, true⟩

/-- A state in a phase, with a stream read up to `pos`. -/
def at' (ph : Phase) (bytes : List Byte) (pos : BitVec 64) : State :=
  { State.reset with phase := ph, stream := str bytes, inPos := pos }

/-- A header of `type`, `depth` and size `w` by 1. -/
def hdrOf (type depth : Byte) (w : Half) : Header :=
  { zeroHeader with imageType := type, pixelDepth := depth, width := w, height := 1 }

/-- A state in LOAD_PIXEL of a strategy, at pixel 0 of `w` pixels, with an 18-byte header already read from the
stream. -/
def atPixel (st : Strategy) (h : Header) (rest : List Byte) : State :=
  { at' .loadPixel (List.replicate 18 0 ++ rest) 18 with
    hdr := h, sizes := sizesOf h, strategy := st, flags := ⟨false, st.isIndexed, false⟩ }

/-- A pixel state of IDX_RLE8 with CMAP_COUNT 2, entries 1:2:3 and 4:5:6, `w` pixels. -/
def atIndex (w : Half) (rest : List Byte) : State :=
  let h := { hdrOf 9 8 w with colorMapType := 1, cMapLength := 2 }
  { atPixel .idxRle8 h ([1, 2, 3, 4, 5, 6] ++ rest) with
    inPos := 24, cmap := [(0, 0x030201), (1, 0x060504)], cmapCount := 2 }

/-- Scenario A (L1.2) with one pixel, before that pixel. -/
def onePixel : State := atPixel .tcRaw24 (hdrOf 2 24 1) [0, 0, 255]

/-- The same image decoded. -/
def decodedOne : State :=
  { onePixel with
    phase := .decoded, stream := none, inPos := 21, pix := 1, flags := ⟨true, false, false⟩,
    out := ⟨[], [(0, 255), (1, 0), (2, 0)], [(0, 255), (1, 255), (2, 0), (3, 0)]⟩ }

/-- The same image with its payload missing, failed. -/
def closedOne : State :=
  { onePixel with
    phase := .closed, stream := none, inPos := 18, error := ⟨.truncatedData, .loadPixel, 0⟩ }

/-- An open RUN packet of two pixels of index 1, three pixels left. -/
def openRun : State :=
  { atIndex 3 [0x81, 1] with inPos := 26, pkt := ⟨true, 2, 2, 1⟩ }

/-- An open RAW packet of two pixels of indexes 1 and 0. -/
def openRaw : State :=
  { atIndex 2 [0x01, 1, 0] with inPos := 25, pkt := ⟨false, 2, 2, 0⟩ }

/-- A state in LOAD_CMAP with a colormap of `n` entries and IN_POS at entry `k`, no image ID, and a stream of 786
bytes, which is where entry 256 would start. -/
def atCmap (type : Byte) (n : Half) (k : BitVec 64) : State :=
  { at' .loadCmap (List.replicate 786 0) (18 + 3 * k) with
    hdr := { zeroHeader with colorMapType := type, cMapLength := n } }

/-- A raw pixel whose stream has delivered the 18 header bytes, nothing after them, and not its end. -/
def stalledPixel : State := { onePixel with stream := some ⟨List.replicate 18 0, false⟩ }

/-- Commands waiting in a phase. -/
def asked (ph : Phase) (cs : List HostCmd) : State := { State.reset with phase := ph, cmds := cs }

/-! ### Well-formedness: an ill-formed term for each check -/

theorem test_wf_supported_key : (Instr.unsupported 0x0108).wellFormed = false := by decide

theorem test_wf_long_id : (Instr.idConsume (List.replicate 256 0)).wellFormed = false := by
  simp only [Instr.wellFormed, List.length_replicate]; decide

theorem test_wf_accepts :
    (Instr.unsupported 0x0A18).wellFormed = true ∧ (Instr.idConsume (List.replicate 255 0)).wellFormed = true :=
  ⟨by decide, by simp only [Instr.wellFormed, List.length_replicate]; decide⟩

/-! ### Decoding: one word per constructor, written out from 30_encoding.md -/

-- R104, L2.1: 0x40 is a RAW packet of 65 pixels, 0xC0 a RUN packet of 65: bit 6 is part of N.
theorem test_decode_rawPkt : decode (plainWord .rlehdr8 [0b01000000]) = .ok (.rawPkt 64) := by decide
theorem test_decode_runPkt : decode (plainWord .rlehdr8 [0b11000000]) = .ok (.runPkt 64) := by decide
-- R108, L2.3: pixelDepth is the first byte of the key, imageType the second.
theorem test_decode_idxRaw8 : decode (plainWord .dkey16 [8, 1]) = .ok .idxRaw8 := by decide
theorem test_decode_tcRaw24 : decode (plainWord .dkey16 [24, 2]) = .ok .tcRaw24 := by decide
theorem test_decode_tcRaw32 : decode (plainWord .dkey16 [32, 2]) = .ok .tcRaw32 := by decide
theorem test_decode_idxRle8 : decode (plainWord .dkey16 [8, 9]) = .ok .idxRle8 := by decide
theorem test_decode_tcRle24 : decode (plainWord .dkey16 [24, 9]) = .ok .tcRle24 := by decide
theorem test_decode_tcRle32 : decode (plainWord .dkey16 [32, 9]) = .ok .tcRle32 := by decide
theorem test_decode_unsupported : decode (plainWord .dkey16 [24, 10]) = .ok (.unsupported 0x0A18) := by decide
-- R101: every field has a byte of its own value, two-byte fields low byte first.
theorem test_decode_hdrCapture :
    decode (plainWord .hdr18 [0x01, 0x02, 0x03, 0x05, 0x04, 0x07, 0x06, 0x08, 0x0A, 0x09, 0x0C, 0x0B, 0x34, 0x12,
      0x10, 0x0F, 0x11, 0x12]) =
    .ok (.hdrCapture ⟨0x01, 0x02, 0x03, 0x0405, 0x0607, 0x08, 0x090A, 0x0B0C, 0x1234, 0x0F10, 0x11, 0x12⟩) := by
  decide
-- R102, H6.
theorem test_decode_idConsume : decode (plainWord .idField [0x41, 0x42]) = .ok (.idConsume [0x41, 0x42]) := by decide
-- R103: blue, green, red in stream order.
theorem test_decode_cmapFill : decode (plainWord .cmape24 [0x10, 0x20, 0x30]) = .ok (.cmapFill 0x10 0x20 0x30) := by
  decide
-- R105 to R107.
theorem test_decode_cmapLookup : decode (plainWord .lookup [5]) = .ok (.cmapLookup 5) := by decide
theorem test_decode_unpack8 : decode (plainWord .px8 [5]) = .ok (.unpack8 5) := by decide
theorem test_decode_unpack24 : decode (plainWord .px24 [0x11, 0x22, 0x33]) = .ok (.unpack24 0x11 0x22 0x33) := by
  decide
theorem test_decode_unpack32 :
    decode (plainWord .px32 [0x11, 0x22, 0x33, 0x44]) = .ok (.unpack32 0x11 0x22 0x33 0x44) := by decide
-- R118.
theorem test_decode_cmdReset : decode (plainWord .hostcmd8 [0x00]) = .ok .cmdReset := by decide
theorem test_decode_cmdOpen :
    decode ⟨.hostcmd8, [0x01], str [7]⟩ = .ok (.cmdOpen (some ⟨[7], true⟩)) := by decide
theorem test_decode_cmdLoad : decode (plainWord .hostcmd8 [0x02]) = .ok .cmdLoad := by decide
theorem test_decode_cmdReadHeader : decode (plainWord .hostcmd8 [0x03]) = .ok .cmdReadHeader := by decide
theorem test_decode_cmdReadCmap : decode (plainWord .hostcmd8 [0x04]) = .ok .cmdReadCmap := by decide
theorem test_decode_cmdReadIdx : decode (plainWord .hostcmd8 [0x05]) = .ok .cmdReadIdx := by decide
theorem test_decode_cmdReadRgb24 : decode (plainWord .hostcmd8 [0x06]) = .ok .cmdReadRgb24 := by decide
theorem test_decode_cmdReadArgb32 : decode (plainWord .hostcmd8 [0x07]) = .ok .cmdReadArgb32 := by decide
theorem test_decode_cmdReadStatus : decode (plainWord .hostcmd8 [0x08]) = .ok .cmdReadStatus := by decide

-- R118: 0x09 is reserved; R100: a unit of the wrong length is rejected.
theorem test_decode_reserved : decode (plainWord .hostcmd8 [0x09]) = .error (.reservedCommand 0x09) := by decide
theorem test_decode_length : decode (plainWord .px24 [0x11, 0x22]) = .error (.wrongLength .px24) := by decide

/-! ### The table's numbering: bits 7..0 of DKEY16 are pixelDepth -/

theorem test_table_key : decodeTableWord 16 0x0220 = some .tcRaw32 := by decide
theorem test_table_cmd : decodeTableWord 8 0x02 = some .cmdLoad ∧ decodeTableWord 8 0xC0 = some (.runPkt 64) := by
  decide
theorem test_table_entry : decodeTableWord 24 0x302010 = some (.cmapFill 0x10 0x20 0x30) := by decide
theorem test_table_run_placed :
    after (step (State.reset.withFetchWord 8 0xC0)) (fun t => t.pkt = ⟨true, 65, 65, 0⟩) = true := by decide
theorem test_table_key_placed :
    after (step (State.reset.withFetchWord 16 0x0908)) (fun t => t.strategy = .idxRle8 ∧ t.phase = .loadPixel) =
      true := by decide

/-! ### One step of each instruction -/

-- V2 of L2.2: `01` opens a RAW packet of 2 and leaves PKT_PAYLOAD.
theorem test_rawPkt :
    after (step (atPixel .tcRle24 (hdrOf 9 24 2) [0x01, 0, 0, 0xFF]))
      (fun t => t.pkt = ⟨false, 2, 2, 0⟩ ∧ t.inPos = 19) = true := by decide
-- V1 of L2.2: `81 00 00 FF` latches 0x00FF0000.
theorem test_runPkt :
    after (step (atPixel .tcRle24 (hdrOf 9 24 2) [0x81, 0, 0, 0xFF]))
      (fun t => t.pkt = ⟨true, 2, 2, 0x00FF0000⟩ ∧ t.inPos = 22) = true := by decide
-- V6 of L2.2: a RUN header with 2 of 3 payload bytes.
theorem test_runPkt_short :
    after (step (atPixel .tcRle24 (hdrOf 9 24 2) [0x81, 1, 2]))
      (fun t => t.phase = .closed ∧ t.error = ⟨.truncatedData, .loadPixel, 0⟩ ∧ t.pkt = ⟨true, 2, 2, 0⟩ ∧
        t.inPos = 21) = true := by decide
-- L2.3: the strategies and IDX_PRESENT.
theorem test_idxRaw8 : after (exec .idxRaw8 State.reset)
    (fun t => t.strategy.code = 1 ∧ t.flags.idxPresent = true ∧ t.phase = .loadPixel) = true := by decide
theorem test_tcRaw24 : after (exec .tcRaw24 State.reset)
    (fun t => t.strategy.code = 2 ∧ t.flags.idxPresent = false) = true := by decide
theorem test_tcRaw32 : after (exec .tcRaw32 State.reset) (fun t => t.strategy.code = 3) = true := by decide
theorem test_idxRle8 : after (exec .idxRle8 State.reset)
    (fun t => t.strategy.code = 4 ∧ t.flags.idxPresent = true) = true := by decide
theorem test_tcRle24 : after (exec .tcRle24 State.reset) (fun t => t.strategy.code = 5) = true := by decide
theorem test_tcRle32 : after (exec .tcRle32 State.reset) (fun t => t.strategy.code = 6) = true := by decide
-- L2.3, check order: MAX_PIXEL_COUNT 99 and 10 by 10 pixels fail with the strategy written; equality passes.
theorem test_capacity :
    after (exec .tcRaw24 { State.reset with
        phase := .loadDispatch, maxPixelCount := 99, sizes := sizesOf { hdrOf 2 24 10 with height := 10 } })
      (fun t => t.error = ⟨.capacity, .loadDispatch, 0⟩ ∧ t.strategy = .tcRaw24 ∧ t.phase = .closed) = true := by
  decide
theorem test_capacity_equal :
    after (exec .tcRaw24 { State.reset with
        phase := .loadDispatch, maxPixelCount := 100, sizes := sizesOf { hdrOf 2 24 10 with height := 10 } })
      (fun t => t.phase = .loadPixel) = true := by decide
-- Scenario C (L1.4).
theorem test_unsupported :
    after (step { at' .loadDispatch [0] 0 with hdr := hdrOf 5 8 1 })
      (fun t => t.phase = .closed ∧ t.error = ⟨.unsupportedFormat, .loadDispatch, 0⟩ ∧ t.strategy = .none ∧
        t.stream = none) = true := by decide
-- H2 of L2.6: 65535 by 65535.
theorem test_hdrCapture_sizes :
    after (exec (.hdrCapture { zeroHeader with width := 0xFFFF, height := 0xFFFF }) State.reset)
      (fun t => t.sizes = ⟨0xFFFE0001, 0xFFFE0001, 0x2FFFA0003, 0x3FFF80004⟩ ∧ t.phase = .loadId) = true := by decide
-- H3 of L2.6: a 17-byte stream.
theorem test_hdrCapture_short :
    after (step (at' .loadHdr (List.replicate 17 0) 0))
      (fun t => t.error = ⟨.ioError, .loadHdr, 0⟩ ∧ t.inPos = 17 ∧ t.phase = .closed) = true := by decide
-- H6 of L2.6.
theorem test_idConsume :
    after (step { at' .loadId (List.replicate 18 0 ++ [0x41, 0x42]) 18 with hdr := { zeroHeader with idLength := 2 } })
      (fun t => t.idBuf = [0x41, 0x42] ∧ t.inPos = 20 ∧ t.phase = .loadCmap) = true := by decide
-- R152: bytes 10 20 30 at k = 5 give CMAP[5] = 0x302010.
theorem test_cmapFill :
    after (exec (.cmapFill 0x10 0x20 0x30) { State.reset with inPos := 18 + 3 * 6 })
      (fun t => t.cmap = [(5, 0x302010)] ∧ t.inPos = 36) = true := by decide
-- R117, R152: after a 2-byte image ID entry 1 starts at stream offset 23.
theorem test_cmapFill_step :
    after (step { at' .loadCmap (List.replicate 20 0 ++ [1, 2, 3, 4, 5, 6]) 23 with
        hdr := { zeroHeader with idLength := 2, colorMapType := 1, cMapLength := 2 } })
      (fun t => t.cmap = [(1, 0x060504)] ∧ t.inPos = 26 ∧ t.phase = .loadCmap) = true := by decide
-- M6 of L2.5: cMapLength bytes 01 01.
theorem test_cmap_too_large :
    after (step { at' .loadCmap (List.replicate 20 0) 18 with
        hdr := { zeroHeader with colorMapType := 1, cMapLength := 257 } })
      (fun t => t.error = ⟨.cmapSize, .loadCmap, 0⟩ ∧ t.inPos = 18 ∧ t.cmap = []) = true := by decide
-- L2.4: EMIT_IDX with CMAP[1] = 04 05 06.
theorem test_cmapLookup :
    after (exec (.cmapLookup 1) (atIndex 1 []))
      (fun t => t.out = ⟨[(0, 1)], [(0, 6), (1, 5), (2, 4)], [(0, 0xFF), (1, 6), (2, 5), (3, 4)]⟩ ∧ t.pix = 1) =
      true := by decide
-- M2 of L2.5: an index equal to CMAP_COUNT.
theorem test_cmapLookup_out :
    after (exec (.cmapLookup 2) (atIndex 1 []))
      (fun t => t.error = ⟨.indexOutOfRange, .loadPixel, 0⟩ ∧ t.out = ⟨[], [], []⟩ ∧ t.phase = .closed) = true := by
  decide
-- R210, R219: index 1 of the same image, from the literal of an open RAW packet.
theorem test_unpack8 :
    after (step openRaw)
      (fun t => t.out.idx = [(0, 1)] ∧ t.out.rgb = [(0, 6), (1, 5), (2, 4)] ∧ t.inPos = 26 ∧ t.pkt.remain = 1 ∧
        t.pix = 1) = true := by decide
-- L2.4: EMIT_TC24 of 11 22 33.
theorem test_unpack24 :
    after (exec (.unpack24 0x11 0x22 0x33) onePixel)
      (fun t => t.out = ⟨[], [(0, 0x33), (1, 0x22), (2, 0x11)],
        [(0, 0xFF), (1, 0x33), (2, 0x22), (3, 0x11)]⟩) = true := by decide
-- L2.4: EMIT_TC32 of 11 22 33 44, at pixel 1 (R81).
theorem test_unpack32 :
    after (exec (.unpack32 0x11 0x22 0x33 0x44) { onePixel with pix := 1 })
      (fun t => t.out = ⟨[], [(3, 0x33), (4, 0x22), (5, 0x11)],
        [(4, 0x44), (5, 0x33), (6, 0x22), (7, 0x11)]⟩) = true := by decide
-- V5 of L2.2: the end of the image inside a packet.
theorem test_finish_overrun :
    after (step { atPixel .tcRle24 (hdrOf 9 24 3) [] with pix := 3, pkt := ⟨true, 4, 1, 0xFF⟩ })
      (fun t => t.phase = .decoded ∧ t.flags = ⟨true, false, true⟩ ∧ t.pkt.remain = 1 ∧ t.stream = none) = true := by
  decide
-- S9 of L2.7.
theorem test_cmdReset :
    after (exec .cmdReset { closedOne with refused := true })
      (fun t => t.phase = .unopened ∧ t.error.code = .none ∧ t.refused = false ∧ t.inPos = 0) = true := by decide
-- S3 and S4 of L2.7.
theorem test_cmdOpen_fails :
    after (exec (.cmdOpen none) State.reset)
      (fun t => t.phase = .unopened ∧ t.error = ⟨.ioError, .unopened, 0⟩ ∧ t.resp = some ⟨.fail .ioError, .none⟩) =
      true := by decide
theorem test_cmdOpen_again :
    after (exec (.cmdOpen (str [1])) { State.reset with error := ⟨.ioError, .unopened, 0⟩ })
      (fun t => t.refused = true ∧ t.stream = none ∧ t.phase = .unopened) = true := by decide
-- S1 of L2.7.
theorem test_cmdLoad_refused :
    after (exec .cmdLoad State.reset) (fun t => t.refused = true ∧ t.phase = .unopened) = true := by decide
theorem test_cmdLoad :
    after (exec .cmdLoad (at' .opened [] 0)) (fun t => t.phase = .loadHdr ∧ t.refused = false) = true := by decide
-- R245: the header of a decoded image of one pixel.
theorem test_cmdReadHeader :
    after (exec .cmdReadHeader decodedOne)
      (fun t => t.resp = some ⟨.ok, .header (hdrOf 2 24 1) ⟨1, 1, 3, 4⟩ []⟩) = true := by decide
-- R246: (blue, green, red) triples.
theorem test_cmdReadCmap :
    after (exec .cmdReadCmap { atIndex 1 [] with phase := .decoded, flags := ⟨true, true, false⟩ })
      (fun t => t.resp = some ⟨.ok, .colors [(1, 2, 3), (4, 5, 6)]⟩) = true := by decide
-- R247, D33: no index buffer for a truecolor image.
theorem test_cmdReadIdx :
    after (exec .cmdReadIdx decodedOne) (fun t => t.resp = some ⟨.ok, .bytes []⟩) = true := by decide
-- Scenario A (L1.2), its first pixel: payload 0:0:255 gives FF 00 00 and FF FF 00 00.
theorem test_cmdReadRgb24 :
    after (exec .cmdReadRgb24 decodedOne) (fun t => t.resp = some ⟨.ok, .bytes [0xFF, 0, 0]⟩) = true := by decide
theorem test_cmdReadArgb32 :
    after (exec .cmdReadArgb32 decodedOne) (fun t => t.resp = some ⟨.ok, .bytes [0xFF, 0xFF, 0, 0]⟩) = true := by
  decide
-- S6 of L2.7: in CLOSED an accessor is refused, and READ_STATUS reports 8 and 3.
theorem test_cmdReadRgb24_closed :
    after (exec .cmdReadRgb24 closedOne) (fun t => t.refused = true ∧ t.resp = some ⟨.refused, .none⟩) = true := by
  decide
theorem test_cmdReadStatus :
    after (exec .cmdReadStatus closedOne)
      (fun t => match t.resp with
        | some ⟨.ok, .status r⟩ => r.phase = 8 ∧ r.err = 3 ∧ r.errPhase = 6 ∧ r.strategy = 2
        | _ => False) = true := by decide

/-! ### Witnesses: the hypotheses of each statement can be met, clause by clause -/

/-- A pixel still to be produced meets the invariant. -/
theorem witness_inv_loadPixel : Inv onePixel := by
  constructor <;> first | decide | (show _ ∧ _; decide)

/-- A pixel whose stream has stalled meets the invariant. -/
theorem witness_inv_stalled : Inv stalledPixel := by
  constructor <;> first | decide | (show _ ∧ _; decide)

/-- A decoded image meets the invariant. -/
theorem witness_inv_decoded : Inv decodedOne := by
  constructor <;> first | decide | (show _ < _; decide)

/-- A failed load meets the invariant. -/
theorem witness_inv_closed : Inv closedOne := by
  constructor <;> first | decide | (show _ < _; decide)

/-- An indexed pixel with a filled colormap meets the invariant. -/
theorem witness_inv_indexed : Inv (atIndex 1 [0x80, 1]) := by
  constructor <;> first | decide | (show _ ∧ _; decide)

/-- A block just after power-on with a command waiting meets the invariant. -/
theorem witness_inv_unopened : Inv (asked .unopened [⟨0x01, str [1]⟩]) := by
  constructor <;> first | decide | (show _ = _; decide)

theorem witness_EncodedInstructionDecodesBack :
    (Instr.unsupported 0x0A18).wellFormed = true ∧ (Instr.idConsume []).wellFormed = true := by decide

theorem witness_DecodedWordReencodes :
    decode (plainWord .px8 [5]) = .ok (.unpack8 5) ∧ decode ⟨.hostcmd8, [2], str [1]⟩ = .ok .cmdLoad := by decide

theorem witness_CommandCodesAndReservedCodes :
    (asked .closed [⟨9, none⟩]).phase.takesCommands = true ∧ (asked .closed [⟨9, none⟩]).cmds = [⟨9, none⟩] ∧
      9 ≤ (9 : Byte).toNat ∧ 9 ≤ (255 : Byte).toNat := by decide

theorem witness_PayloadPacksLittleEndian : ([] : List Byte).length ≤ 4 ∧ ([1, 2, 3, 4] : List Byte).length ≤ 4 := by
  decide

-- Every kind of stream unit, a dispatch key, a latched RUN payload and a command.
theorem witness_StepRunsTheDecodedUnit :
    (nextRead (at' .loadHdr (List.replicate 18 0) 0) = some (.hdr18, 18) ∧
      (at' .loadHdr (List.replicate 18 0) 0).inPos.toNat + 18 ≤ 18) ∧
    (nextRead (at' .loadId (List.replicate 18 0) 18) = some (.idField, 0) ∧
      (at' .loadId (List.replicate 18 0) 18).inPos.toNat + 0 ≤ 18) ∧
    (nextRead (atCmap 1 256 255) = some (.cmape24, 3) ∧ (atCmap 1 256 255).inPos.toNat + 3 ≤ 786) ∧
    (nextRead (atIndex 1 [0x80, 1]) = some (.rlehdr8, 1) ∧ (atIndex 1 [0x80, 1]).inPos.toNat + 1 ≤ 26) ∧
    (nextRead openRaw = some (.px8, 1) ∧ openRaw.inPos.toNat + 1 ≤ 27) ∧
    (nextRead onePixel = some (.px24, 3) ∧ onePixel.inPos.toNat + 3 ≤ 21) ∧
    ({ State.reset with phase := .loadDispatch }).phase = .loadDispatch ∧
    (openRun.phase = .loadPixel ∧ openRun.strategy.payload = some (.px8, 1) ∧
      openRun.pix.toNat < openRun.sizes.pixelCount.toNat ∧
      openRun.strategy.isRle = true ∧ openRun.pkt.remain ≠ 0 ∧ openRun.pkt.enc = true) ∧
    ((asked .closed [⟨8, none⟩]).phase.takesCommands = true ∧ (asked .closed [⟨8, none⟩]).cmds = [⟨8, none⟩] ∧
      decode ⟨.hostcmd8, [8], none⟩ = .ok .cmdReadStatus) := by decide

theorem witness_FetchedUnitsAreLegal :
    fetch (asked .closed [⟨9, none⟩]) = .unit ⟨.hostcmd8, [9], none⟩ (asked .closed []) ∧
    fetch (asked .closed [⟨8, none⟩]) = .unit ⟨.hostcmd8, [8], none⟩ (asked .closed []) := ⟨rfl, rfl⟩

theorem witness_IdleUntilCommand :
    (asked .decoded []).phase.takesCommands = true ∧ (asked .decoded []).cmds = [] ∧
    (asked .decoded [⟨8, none⟩]).phase.takesCommands = true ∧ (asked .decoded [⟨8, none⟩]).cmds = [⟨8, none⟩] := by
  decide

-- A stream of 3 bytes read to position 2: one more byte is there, two are not.
theorem witness_StreamReadAnswers :
    (at' .loadPixel [1, 2, 3] 2).stream = some ⟨[1, 2, 3], true⟩ ∧ ([1, 2, 3] : List Byte).length < 2 ^ 64 ∧
    (at' .loadPixel [1, 2, 3] 2).inPos.toNat + 1 ≤ 3 ∧ 3 < (at' .loadPixel [1, 2, 3] 2).inPos.toNat + 2 := by decide

theorem witness_ShortReadRaisesByPhase :
    (nextRead (at' .loadHdr (List.replicate 17 0) 0) = some (.hdr18, 18) ∧
      (List.replicate 17 (0 : Byte)).length < 0 + 18) ∧
    (nextRead { at' .loadId [] 0 with hdr := { zeroHeader with idLength := 1 } } = some (.idField, 1)) ∧
    (nextRead { at' .loadCmap (List.replicate 20 0) 18 with
        hdr := { zeroHeader with colorMapType := 1, cMapLength := 256 } } = some (.cmape24, 3) ∧
      (List.replicate 20 (0 : Byte)).length < 18 + 3) ∧
    (nextRead (atPixel .tcRaw24 (hdrOf 2 24 1) [1, 2]) = some (.px24, 3) ∧
      (atPixel .tcRaw24 (hdrOf 2 24 1) [1, 2]).stream = str (List.replicate 18 0 ++ [1, 2])) ∧
    (nextRead stalledPixel = some (.px24, 3) ∧ stalledPixel.stream = some ⟨List.replicate 18 0, false⟩ ∧
      18 < stalledPixel.inPos.toNat + 3) := by decide

theorem witness_HeaderCaptureStep :
    (at' .loadHdr (List.replicate 18 0) 0).phase = .loadHdr ∧
    (at' .loadHdr (List.replicate 18 0) 0).stream = some ⟨List.replicate 18 0, true⟩ ∧
    0 + 18 ≤ (List.replicate 18 (0 : Byte)).length ∧ (List.replicate 17 (0 : Byte)).length < 0 + 18 := by decide

-- An ID field of no bytes and one of two.
theorem witness_IdConsumeStoresBytes :
    (at' .loadId [] 0).phase = .loadId ∧ (at' .loadId [] 0).stream = some ⟨[], true⟩ ∧
    (at' .loadId [] 0).inPos.toNat + (at' .loadId [] 0).hdr.idLength.toNat ≤ 0 ∧
    (at' .loadId [1, 2] 0).inPos.toNat + 2 ≤ ([1, 2] : List Byte).length := by decide

-- Lengths 257 and 256; at 256 entries the first one, the last one and the end.
theorem witness_ColormapPhaseChecksAndCounts :
    ((atCmap 0 257 0).hdr.colorMapType = 0 ∧ (atCmap 0 257 0).phase = .loadCmap) ∧
    ((atCmap 1 257 0).hdr.colorMapType ≠ 0 ∧ 256 < (atCmap 1 257 0).hdr.cMapLength.toNat) ∧
    ((atCmap 1 256 256).hdr.cMapLength.toNat ≤ 256 ∧ (atCmap 1 256 256).inPos.toNat =
      18 + (atCmap 1 256 256).hdr.idLength.toNat + 3 * (atCmap 1 256 256).hdr.cMapLength.toNat) ∧
    ((0 < (atCmap 1 256 0).hdr.cMapLength.toNat ∧ (atCmap 1 256 0).inPos.toNat = 18 + 0 + 3 * 0) ∧
      255 < (atCmap 1 256 255).hdr.cMapLength.toNat ∧ (atCmap 1 256 255).inPos.toNat = 18 + 0 + 3 * 255 ∧
      (atCmap 1 256 255).inPos.toNat + 3 ≤ 786) := by decide

theorem witness_ColormapPhaseChecksAndCounts_stream (k : BitVec 64) :
    (atCmap 1 256 k).stream = some ⟨List.replicate 786 0, true⟩ ∧ (List.replicate 786 (0 : Byte)).length = 786 :=
  ⟨rfl, List.length_replicate⟩

-- Entry 0 and entry 255.
theorem witness_CmapFillWritesOneEntry :
    (atCmap 1 256 1).inPos.toNat = 18 + (atCmap 1 256 1).hdr.idLength.toNat + 3 * (0 + 1) ∧
      (atCmap 1 256 256).inPos.toNat = 18 + (atCmap 1 256 256).hdr.idLength.toNat + 3 * (255 + 1) := by decide

-- CMAP_COUNT 2: index 2 is out of range, index 1 is the last one in range.
theorem witness_CmapLookupEmitsPixel :
    (atIndex 1 []).cmapCount.toNat ≤ (2 : Byte).toNat ∧ (1 : Byte).toNat < (atIndex 1 []).cmapCount.toNat := by decide

-- A literal and a latched payload.
theorem witness_Unpack8HandsIndexToLookup :
    (∀ s ∈ [openRaw, openRun],
      s.phase = .loadPixel ∧ s.strategy.isIndexed = true ∧ s.pix.toNat < s.sizes.pixelCount.toNat) ∧
    (openRaw.pkt.remain ≠ 0 ∧ openRaw.pkt.enc = false ∧
      openRaw.stream = str (List.replicate 18 0 ++ ([1, 2, 3, 4, 5, 6] ++ [0x01, 1, 0])) ∧
      openRaw.inPos.toNat + 1 ≤ 27) ∧
    (openRun.strategy.isRle = true ∧ openRun.pkt.remain ≠ 0 ∧ openRun.pkt.enc = true) := by decide

theorem witness_RunPacketLatchesPayload :
    onePixel.strategy.payload = some (.px24, 3) ∧
      onePixel.stream = some ⟨List.replicate 18 0 ++ [0, 0, 255], true⟩ ∧ onePixel.inPos.toNat + 3 ≤ 21 := by decide

-- The three packet openings: RAW of 128, RUN with its payload, RUN without it.
theorem witness_PacketFetchStep :
    (∀ rest ∈ ([[0x7F], [0xFF, 1], [0x80]] : List (List Byte)),
      let s := atIndex 1 rest
      s.phase = .loadPixel ∧ s.strategy.isRle = true ∧ s.strategy.payload = some (.px8, 1) ∧
        s.pix.toNat < s.sizes.pixelCount.toNat ∧ s.pkt.remain = 0 ∧
        s.stream = some ⟨List.replicate 18 0 ++ ([1, 2, 3, 4, 5, 6] ++ rest), true⟩ ∧
        s.inPos.toNat + 1 ≤ 24 + rest.length) ∧
    (0x7F : Byte) &&& 0x80 = 0 ∧
    ((0xFF : Byte) &&& 0x80 ≠ 0 ∧ (atIndex 1 [0xFF, 1]).inPos.toNat + 1 + 1 ≤ 26) ∧
    ((0x80 : Byte) &&& 0x80 ≠ 0 ∧ 25 < (atIndex 1 [0x80]).inPos.toNat + 1 + 1) := by decide

theorem witness_PayloadSource :
    (∀ s ∈ [atIndex 1 [0x80, 1], openRun, openRaw, onePixel],
      s.phase = .loadPixel ∧ s.strategy.payload.isSome = true ∧ s.pix.toNat < s.sizes.pixelCount.toNat) ∧
    (atIndex 1 [0x80, 1]).pkt.remain = 0 ∧ (openRun.pkt.remain ≠ 0 ∧ openRun.pkt.enc = true) ∧
    (openRaw.pkt.remain ≠ 0 ∧ openRaw.pkt.enc = false) ∧ onePixel.strategy.isRle = false := by decide

-- A run inside the image, one that ends exactly with it, and one that overruns it by a pixel.
theorem witness_RunPacketRepeatsItsPayload :
    (∀ s ∈ [openRun, { atIndex 2 [0x81, 1] with inPos := 26, pkt := ⟨true, 2, 2, 1⟩ }],
      s.phase = .loadPixel ∧ s.strategy.isRle = true ∧ s.pkt.enc = true ∧
        2 ≤ s.pkt.remain.toNat ∧ s.pix.toNat + 2 ≤ s.sizes.pixelCount.toNat ∧
        (s.pkt.payload.extractLsb' 0 8).toNat < s.cmapCount.toNat) ∧
    (let s := { atIndex 1 [0x81, 1] with inPos := 26, pkt := ⟨true, 2, 2, 1⟩ }
     s.phase = .loadPixel ∧ s.strategy.isRle = true ∧ s.pkt.enc = true ∧
        s.pix.toNat + 1 = s.sizes.pixelCount.toNat ∧ 1 < s.pkt.remain.toNat ∧
        (s.pkt.payload.extractLsb' 0 8).toNat < s.cmapCount.toNat) := by decide

-- A RAW packet of two pixels used up, and the one pixel of a raw strategy.
theorem witness_LiteralPixelsFollowTheStream :
    (openRaw.phase = .loadPixel ∧ openRaw.strategy.payload = some (.px8, 1) ∧
      openRaw.pkt.enc = false ∧ 2 ≤ openRaw.pkt.remain.toNat ∧
      openRaw.pix.toNat + 2 ≤ openRaw.sizes.pixelCount.toNat ∧
      openRaw.stream = str (List.replicate 18 0 ++ ([1, 2, 3, 4, 5, 6] ++ [0x01, 1, 0])) ∧
      openRaw.inPos.toNat + 2 * 1 ≤ 27 ∧ (1 : Byte).toNat < openRaw.cmapCount.toNat) ∧
    (onePixel.phase = .loadPixel ∧ onePixel.strategy.payload = some (.px24, 3) ∧
      onePixel.strategy.isRle = false ∧ onePixel.strategy.isIndexed = false ∧
      onePixel.pix.toNat + 1 ≤ onePixel.sizes.pixelCount.toNat ∧ onePixel.inPos.toNat + 1 * 3 ≤ 21) := by decide

/-- A state in LOAD_DISPATCH with a limit on the pixels. -/
def atDispatch (type depth : Byte) (w : Half) (limit : Nat) : State :=
  { at' .loadDispatch [] 0 with hdr := hdrOf type depth w, sizes := sizesOf (hdrOf type depth w), maxPixelCount := limit }

-- Nine pixels against a limit of nine and of eight; a key outside the table.
theorem witness_DispatchSelectsStrategy :
    (∀ row ∈ ([(1, 8), (2, 24), (2, 32), (9, 8), (9, 24), (9, 32)] : List (Byte × Byte)),
      (atDispatch row.1 row.2 9 9).phase = .loadDispatch ∧ (atDispatch row.1 row.2 9 9).hdr.imageType = row.1 ∧
        (atDispatch row.1 row.2 9 9).hdr.pixelDepth = row.2 ∧
        (atDispatch row.1 row.2 9 9).sizes.pixelCount.toNat ≤ (atDispatch row.1 row.2 9 9).maxPixelCount ∧
        (atDispatch row.1 row.2 9 8).maxPixelCount < (atDispatch row.1 row.2 9 8).sizes.pixelCount.toNat) ∧
    ((atDispatch 10 24 1 9).hdr.imageType, (atDispatch 10 24 1 9).hdr.pixelDepth) ∉
      ([(1, 8), (2, 24), (2, 32), (9, 8), (9, 24), (9, 32)] : List (Byte × Byte)) :=
  ⟨by intro row h; fin_cases h <;> decide, by decide⟩

theorem witness_StrategyInstructionsEnterPixelLoop :
    (atDispatch 2 24 9 9).sizes.pixelCount.toNat ≤ (atDispatch 2 24 9 9).maxPixelCount ∧
      (atDispatch 2 24 9 8).maxPixelCount < (atDispatch 2 24 9 8).sizes.pixelCount.toNat := by decide

-- The end of an image with a packet used up and with one pixel of it left.
theorem witness_LoopEndEntersDecoded :
    ∀ s ∈ [{ onePixel with pix := 1 },
      { atPixel .tcRle24 (hdrOf 9 24 3) [] with pix := 3, pkt := ⟨true, 4, 1, 0xFF⟩ }],
      s.phase = .loadPixel ∧ s.strategy ≠ .none ∧ s.pix = s.sizes.pixelCount := by decide

theorem witness_ZeroSizedImageDecodes :
    ∀ row ∈ ([(1, 8), (2, 24), (2, 32), (9, 8), (9, 24), (9, 32)] : List (Byte × Byte)),
      (atDispatch row.1 row.2 0 9).phase = .loadDispatch ∧ (atDispatch row.1 row.2 0 9).sizes = ⟨0, 0, 0, 0⟩ ∧
        (atDispatch row.1 row.2 0 9).hdr.imageType = row.1 ∧ (atDispatch row.1 row.2 0 9).hdr.pixelDepth = row.2 := by
  intro row h; fin_cases h <;> decide

theorem witness_OpenAttachesStream :
    (State.reset.phase = .unopened ∧ State.reset.error.code = .none) ∧ closedOne.phase ≠ .unopened ∧
    ({ State.reset with error := ⟨.ioError, .unopened, 0⟩ }).error.code ≠ .none ∧
    Inv (asked .unopened [⟨0x01, str [1]⟩]) := ⟨by decide, by decide, by decide, witness_inv_unopened⟩

theorem witness_LoadBeginsInOpened : (at' .opened [] 0).phase = .opened ∧ decodedOne.phase ≠ .opened := by decide

theorem witness_ReadHeaderReturnsRegisters :
    decodedOne.phase = .decoded ∧ decodedOne.flags.resultValid = true ∧ closedOne.phase ≠ .decoded := by decide

/-- The image of `atIndex` decoded. -/
def decodedIndex : State :=
  { atIndex 1 [1] with
    phase := .decoded, stream := none, inPos := 25, pix := 1, flags := ⟨true, true, false⟩,
    out := ⟨[(0, 1)], [(0, 6), (1, 5), (2, 4)], [(0, 255), (1, 6), (2, 5), (3, 4)]⟩ }

-- Entry 1 is the last of CMAP_COUNT = 2.
theorem witness_ReadCmapReturnsTriples :
    decodedIndex.phase = .decoded ∧ decodedIndex.flags.resultValid = true ∧ 1 < decodedIndex.cmapCount.toNat ∧
      Memory.read decodedIndex.cmap 1 = some 0x060504 ∧ closedOne.phase ≠ .decoded := by decide

-- The last byte of each buffer, with and without an index buffer.
theorem witness_ReadPixelsReturnBuffers :
    (decodedIndex.phase = .decoded ∧ decodedIndex.flags.resultValid = true ∧ decodedIndex.flags.idxPresent = true) ∧
    (0 < decodedIndex.sizes.size8.toNat ∧ Memory.read decodedIndex.out.idx 0 = some 1) ∧
    (2 < decodedIndex.sizes.size24.toNat ∧ Memory.read decodedIndex.out.rgb 2 = some 4) ∧
    (3 < decodedIndex.sizes.size32.toNat ∧ Memory.read decodedIndex.out.argb 3 = some 4) ∧
    decodedOne.flags.idxPresent = false ∧ closedOne.phase ≠ .decoded := by decide

theorem witness_AccessorsAreReadOnly :
    decodedOne.phase = .decoded ∧ decodedOne.flags.resultValid = true ∧ closedOne.phase ≠ .decoded ∧ Inv decodedOne :=
  ⟨by decide, by decide, by decide, witness_inv_decoded⟩

-- A LOAD in CLOSED and a RESET in DECODED.
theorem witness_TerminalPhasesHoldUntilReset :
    (∃ t, step { closedOne with cmds := [⟨2, none⟩] } = .next t) ∧ closedOne.phase = .closed ∧
    (∃ t, step { decodedOne with cmds := [⟨0, none⟩] } = .next t) ∧
    resetPending { decodedOne with cmds := [⟨0, none⟩] } :=
  ⟨⟨_, rfl⟩, rfl, ⟨_, rfl⟩, rfl, _, _, rfl, rfl⟩

theorem witness_HeaderKeptUntilReset : (∃ t, step onePixel = .next t) ∧ onePixel.phase ≠ .loadHdr :=
  ⟨⟨_, rfl⟩, by decide⟩

theorem witness_StrategyChangesOnlyInDispatch :
    (∃ t, step onePixel = .next t) ∧ onePixel.phase ≠ .loadDispatch ∧ Inv onePixel ∧ onePixel.phase = .loadPixel :=
  ⟨⟨_, rfl⟩, by decide, witness_inv_loadPixel, rfl⟩

theorem witness_ColormapFilledBeforeLookup :
    (∃ t, step onePixel = .next t) ∧ onePixel.phase ≠ .loadCmap ∧ Inv (atIndex 1 [0x80, 1]) ∧
      (atIndex 1 [0x80, 1]).phase = .loadPixel ∧ (1 : Byte).toNat < (atIndex 1 [0x80, 1]).cmapCount.toNat :=
  ⟨⟨_, rfl⟩, by decide, witness_inv_indexed, rfl, by decide⟩

theorem witness_PositionOnlyIncreases : Inv onePixel ∧ ∃ t, step onePixel = .next t :=
  ⟨witness_inv_loadPixel, _, rfl⟩

theorem witness_StreamKeptWhileLoading : onePixel.phase.loading = true ∧ ∃ t, step onePixel = .next t :=
  ⟨rfl, _, rfl⟩

theorem witness_CommandsWaitForTheLoad :
    (onePixel.phase.loading = true ∧ ∃ t, step onePixel = .next t) ∧
    (closedOne.phase.loading = false ∧ ∃ t, step closedOne = .next t) := ⟨⟨rfl, _, rfl⟩, rfl, _, rfl⟩

theorem witness_RefusedIsSticky :
    (∃ t, step { closedOne with refused := true } = .next t) ∧
    (closedOne.refused = false ∧ ∃ t, step { closedOne with cmds := [⟨2, none⟩] } = .next t ∧ t.refused = true) :=
  ⟨⟨_, rfl⟩, rfl, _, rfl, rfl⟩

theorem witness_OutputsChangeOnlyInLoadPixel :
    (closedOne.phase ≠ .loadPixel ∧ ∃ t, step closedOne = .next t) ∧
    ((atPixel .tcRaw24 (hdrOf 2 24 1) [1, 2]).phase = .loadPixel ∧
      ∃ t, step (atPixel .tcRaw24 (hdrOf 2 24 1) [1, 2]) = .next t ∧ t.phase = .closed) :=
  ⟨⟨by decide, _, rfl⟩, rfl, _, rfl, rfl⟩

theorem witness_PhasesFollowTheLoadOrder : ∃ t, step onePixel = .next t := ⟨_, rfl⟩

theorem witness_UninterpretedFieldsChangeNothing : onePixel.phase.loading = true ∧ onePixel.phase ≠ .loadHdr := by
  decide

theorem witness_StepKeepsInvariant :
    (Inv onePixel ∧ ∃ t, step onePixel = .next t) ∧
    (Inv (asked .unopened [⟨0x01, str [1]⟩]) ∧ ∃ t, step (asked .unopened [⟨0x01, str [1]⟩]) = .next t) :=
  ⟨⟨witness_inv_loadPixel, _, rfl⟩, witness_inv_unopened, _, rfl⟩

theorem witness_StepKeepsMemoriesCanonical :
    (∃ t, step onePixel = .next t) ∧ Memory.wf decodedOne.out.rgb = true ∧ Memory.wf decodedOne.out.argb = true ∧
      Memory.wf decodedOne.out.idx = true ∧ Memory.wf (atIndex 1 []).cmap = true :=
  ⟨⟨_, rfl⟩, by decide⟩

theorem witness_DecodedImageIsComplete : Inv decodedOne ∧ decodedOne.phase = .decoded := ⟨witness_inv_decoded, rfl⟩

theorem witness_FailedLoadWroteEarlierPixels : Inv closedOne ∧ closedOne.phase = .closed :=
  ⟨witness_inv_closed, rfl⟩

-- Both outcomes: a step, and a stream that neither delivers nor ends.
theorem witness_OnlyAStalledStreamStops :
    (Inv onePixel ∧ ∃ t, step onePixel = .next t) ∧
    (Inv stalledPixel ∧ step stalledPixel = .fault .streamStall) :=
  ⟨⟨witness_inv_loadPixel, _, rfl⟩, witness_inv_stalled, rfl⟩

theorem witness_EveryLoadEnds :
    onePixel.phase.loading = true ∧ onePixel.stream = some ⟨List.replicate 18 0 ++ [0, 0, 255], true⟩ ∧
      onePixel.strategy ≠ .none := by decide

-- The same record with another last response and another counter.
theorem witness_RecordDeterminesTheStep :
    let s' : State := { atIndex 1 [0x80, 1] with resp := some ⟨.ok, .none⟩, epoch := 7 }
    Inv (atIndex 1 [0x80, 1]) ∧ s'.toBlockState = (atIndex 1 [0x80, 1]).toBlockState ∧
      s'.stream = (atIndex 1 [0x80, 1]).stream ∧ s'.maxPixelCount = (atIndex 1 [0x80, 1]).maxPixelCount ∧
      s'.cmds = (atIndex 1 [0x80, 1]).cmds ∧ ∃ t, step (atIndex 1 [0x80, 1]) = .next t :=
  ⟨witness_inv_indexed, rfl, rfl, rfl, rfl, _, rfl⟩

end Sys2Proof.Tests
end

section
/-! Packing a payload's bytes and unpacking the value (00_scope.md R13, 30_encoding.md R110). -/

namespace Sys2Proof.Machine

/-- The lowest byte of a packed value is the sequence's first byte. -/
theorem lePack_cons_byte_zero (b : Byte) (bs : List Byte) : (lePack (b :: bs)).extractLsb' 0 8 = b := by
  apply BitVec.eq_of_getLsbD_eq; intro k hk
  simp [lePack_cons_getLsbD b bs k (by omega), hk]

/-- A first byte moves the bytes after it up by one place, and the fourth of them out of the value. -/
theorem lePack_cons_byte_succ (b : Byte) (bs : List Byte) {i : Nat} (hi : i + 1 < 4) :
    (lePack (b :: bs)).extractLsb' (8 * (i + 1)) 8 = (lePack bs).extractLsb' (8 * i) 8 := by
  apply BitVec.eq_of_getLsbD_eq; intro k hk
  have hnot : ¬ 8 * (i + 1) + k < 8 := by omega
  have hsub : 8 * (i + 1) + k - 8 = 8 * i + k := by omega
  simp [lePack_cons_getLsbD b bs (8 * (i + 1) + k) (by omega), hnot, hsub]

/-- Each of the four bytes of a packed value is the sequence's byte there, and 0 where the sequence has none. -/
theorem lePack_byte (bs : List Byte) {i : Nat} (hi : i < 4) :
    (lePack bs).extractLsb' (8 * i) 8 = bs.getD i 0 := by
  induction bs generalizing i with
  | nil => simp [lePack]
  | cons b bs ih =>
    cases i with
    | zero => simpa using lePack_cons_byte_zero b bs
    | succ i => rw [lePack_cons_byte_succ b bs hi, ih (by omega), List.getD_cons_succ]

/-- Unpacking as many bytes as were packed gives them back, when the value has room for all of them. -/
theorem leBytes_lePack {bs : List Byte} (hlen : bs.length ≤ 4) : leBytes bs.length (lePack bs) = bs := by
  apply List.ext_getElem?'
  intro i hi
  have hi : i < bs.length := by simpa [leBytes_length] using hi
  rw [leBytes_getElem? _ _ i hi, lePack_byte bs (by omega)]
  simp [hi]

end Sys2Proof.Machine

open Sys2Proof.Machine

/-- Settles O7: the bytes of a packed value by `lePack_byte`, the unpacking by `leBytes_lePack`. -/
theorem payloadPacksLittleEndian : Obligations.PayloadPacksLittleEndian :=
  fun bs hlen => ⟨fun _ hi => lePack_byte bs hi, leBytes_lePack hlen⟩

end

section
/-! What one step does to the state, read off `StepCase` for every statement about a step: the source of a payload and
the choice of a strategy. -/

namespace Sys2Proof.Machine

/-- Taking a payload moves at most IN_POS. -/
theorem PayloadFrom.eq_inPos {p : Nat} {s u : State} (h : PayloadFrom p s u) : ∃ q, u = { s with inPos := q } := by
  rcases h with ⟨-, -, -, rfl⟩ | ⟨-, -, -, -, rfl⟩
  · exact ⟨u.inPos, rfl⟩
  · exact ⟨_, rfl⟩

/-- A strategy is selected when the image fits, and fails with CapacityError when it does not (R190, R192). -/
theorem selectStrategy_cases (st : Strategy) (s : State) :
    (s.sizes.pixelCount.toNat ≤ s.maxPixelCount ∧ selectStrategy st s =
        { setIdxPresent st { s with strategy := st } with pix := 0, pkt := zeroPacket, phase := .loadPixel }) ∨
      selectStrategy st s = raise .capacity (setIdxPresent st { s with strategy := st }) :=
  (Nat.lt_or_ge s.maxPixelCount s.sizes.pixelCount.toNat).symm.imp (fun h => ⟨h, selectStrategy_fits st s h⟩)
    (selectStrategy_tooLarge st s)

/-- A payload has at most four bytes (R37). -/
theorem payload_length_le {st : Strategy} {sl : Slot} {p : Nat} (h : st.payload = some (sl, p)) : p ≤ 4 := by
  rcases payload_cases h with ⟨-, rfl⟩ | ⟨-, rfl⟩ | ⟨-, rfl⟩ <;> decide

/-- Exactly the indexed strategies have payloads of slot PX8 (R37). -/
theorem isIndexed_iff_px8 {st : Strategy} {sl : Slot} {p : Nat} (h : st.payload = some (sl, p)) :
    st.isIndexed = true ↔ sl = .px8 := by
  cases st <;> simp_all [Strategy.payload, Strategy.isIndexed, eq_comm]

end Sys2Proof.Machine
end

section
/-! The invariant of a run is kept by every step (10_state.md R30 to R51). Its parts that hold whatever the phase are
`Kept`; a state before LOAD_PIXEL, where nothing is selected or produced, is `Blank`; the failure path needs no more
than `Kept` and the bounds of `Failing`. -/

namespace Sys2Proof.Machine

/-- The parts of the invariant that name no phase. -/
structure Kept (s : State) : Prop where
  sizes : s.sizes = sizesOf s.hdr
  rgb : Memory.keys s.out.rgb = List.range (3 * s.pix.toNat)
  argb : Memory.keys s.out.argb = List.range (4 * s.pix.toNat)
  idx : Memory.keys s.out.idx = List.range (if s.flags.idxPresent then s.pix.toNat else 0)
  count : s.cmapCount.toNat ≤ 256
  pix : s.pix.toNat ≤ s.sizes.pixelCount.toNat
  packet : s.pkt.remain.toNat ≤ s.pkt.len.toNat ∧ s.pkt.len.toNat ≤ 128
  rawPacket : s.strategy.isRle = false → s.pkt = zeroPacket
  present : s.flags.idxPresent = s.strategy.isIndexed

/-- What a load keeps up to the step that fails: exactly the entries filled are written, IN_POS is below 2^36. -/
structure Failing (s : State) : Prop extends Kept s where
  loading : s.phase.loading = true
  cmapKeys : Memory.keys s.cmap = List.range s.cmap.length
  filled : s.cmap.length ≤ (cmapEntries s.hdr).toNat ∧ s.cmap.length ≤ 256
  inside : s.flags.pktOverrun = false
  bound : s.inPos.toNat < 2 ^ 36

/-- Nothing is selected, produced, flagged or failed: the registers of a decode before LOAD_PIXEL. -/
structure Blank (s : State) : Prop where
  sizes : s.sizes = sizesOf s.hdr
  unselected : s.strategy = .none
  pix : s.pix = 0
  pkt : s.pkt = zeroPacket
  flags : s.flags = ⟨false, false, false⟩
  out : s.out = ⟨[], [], []⟩
  error : s.error = ⟨.none, .unopened, 0⟩

variable {s t : State}

/-- The invariant holds whatever the phase in these parts. -/
theorem Inv.kept (h : Inv s) : Kept s := { h with }

/-- A memory that lists exactly the addresses below `n` holds `n` units. -/
theorem Memory.length_of_keys_range {w n : Nat} {m : Memory w} (h : Memory.keys m = List.range n) : m.length = n := by
  simpa [Memory.keys] using congrArg List.length h

/-- A memory that lists no address is empty. -/
theorem Memory.eq_nil_of_keys_range {w : Nat} {m : Memory w} (h : Memory.keys m = List.range 0) : m = [] :=
  List.eq_nil_of_length_eq_zero (Memory.length_of_keys_range h)

/-- Before LOAD_PIXEL, and with no OPEN failed, nothing is selected, produced, flagged or failed. -/
theorem Inv.blank (h : Inv s) (hp : s.phase.beforePixels = true) (he : s.error.code = .none) : Blank s := by
  obtain ⟨hst, hpix, hpkt, hflags⟩ := h.early hp
  obtain ⟨hepix, hephase, -⟩ := h.clear fun hc => by simp [hc, Phase.beforePixels] at hp
  have hidx := h.idx; have hrgb := h.rgb; have hargb := h.argb
  simp only [hpix, hflags] at hidx hrgb hargb
  have hout : s.out = ⟨s.out.idx, s.out.rgb, s.out.argb⟩ := rfl
  have herr : s.error = ⟨s.error.code, s.error.phase, s.error.pix⟩ := rfl
  rw [Memory.eq_nil_of_keys_range hidx, Memory.eq_nil_of_keys_range hrgb, Memory.eq_nil_of_keys_range hargb] at hout
  rw [he, hephase, hepix] at herr
  exact ⟨h.sizes, hst, hpix, hpkt, hflags, hout, herr⟩

/-- In a load before LOAD_PIXEL no error is recorded. -/
theorem Inv.blank_of_loading (h : Inv s) (hp : s.phase.beforePixels = true) (hu : s.phase ≠ .unopened) : Blank s :=
  h.blank hp <| (h.clear fun hc => by simp [hc, Phase.beforePixels] at hp).2.2.resolve_right fun hx => hu hx.1

/-- Before LOAD_PIXEL the invariant is `Blank` and what the phase says of the header, the colormap and the stream. -/
theorem Blank.inv (b : Blank s) (hp : s.phase.beforePixels = true)
    (header : s.phase = .unopened ∨ s.phase = .opened ∨ s.phase = .loadHdr → s.hdr = zeroHeader)
    (cmap : Memory.keys s.cmap = List.range (filledEntries s))
    (fill : filledEntries s ≤ (cmapEntries s.hdr).toNat ∧ filledEntries s ≤ 256)
    (count : s.cmapCount.toNat = if s.phase.cmapDone then (cmapEntries s.hdr).toNat else 0)
    (attached : s.stream.isSome = s.phase.attached)
    (within : ∀ st, s.stream = some st → s.inPos.toNat ≤ st.bytes.length) (pos : posInPhase s) : Inv s := by
  have hdone : s.phase ≠ .decoded := fun h => by simp [h, Phase.beforePixels] at hp
  have hclosed : s.phase ≠ .closed := fun h => by simp [h, Phase.beforePixels] at hp
  have hpix : s.phase ≠ .loadPixel := fun h => by simp [h, Phase.beforePixels] at hp
  obtain ⟨sizes, hst, hpx, hpkt, hflags, hout, herr⟩ := b
  exact
    { sizes, header, cmap, fill, attached, within, pos
      rgb := by simp [hout, hpx, Memory.keys]
      argb := by simp [hout, hpx, Memory.keys]
      idx := by simp [hout, hpx, Memory.keys]
      count := by
        rw [count]
        split
        · rename_i hd; rw [← filledEntries_done hd]; exact fill.2
        · decide
      counted := fun hd => by simpa [hd] using count
      uncounted := fun _ hd => BitVec.eq_of_toNat_eq (by simpa [hd] using count)
      pix := by simp [hpx]
      packet := by rw [hpkt]; decide
      early := fun _ => ⟨hst, hpx, hpkt, hflags⟩
      rawPacket := fun _ => hpkt
      present := by rw [hst, hflags]; rfl
      selected := fun h => absurd h (by simp [hpix, hdone])
      valid := by simp [hflags, hdone]
      overrun := by simp [hflags, hdone]
      done := fun h => absurd h hdone
      closed := fun h => absurd h hclosed
      clear := fun _ => by simp [herr] }

/-- The failure path of R266 leads from a load into CLOSED of the invariant. -/
theorem Failing.inv_raise (f : Failing s) {e : Err} (he : e ≠ .none) : Inv (raise e s) :=
  { f.toKept with
    header := by simp
    cmap := f.cmapKeys
    fill := f.filled
    counted := by simp [Phase.cmapDone]
    uncounted := by simp [Phase.beforePixels]
    early := by simp [Phase.beforePixels]
    selected := by simp
    valid := by simp
    overrun := by simp [f.inside]
    done := by simp
    attached := rfl
    within := by simp
    pos := f.bound
    closed := fun _ => ⟨he, rfl, f.loading⟩
    clear := fun h => absurd rfl h }

/-- The pixel data starts below 2^18 (R117). -/
theorem pixelOffset_lt (h : Header) : pixelOffset h < 2 ^ 18 := by
  have := h.idLength.isLt; have := (cmapEntries h).isLt
  unfold pixelOffset; omega

/-- IN_POS in a load is far below 2^36 (R38). -/
theorem Inv.inPos_lt (h : Inv s) (hl : s.phase.loading = true) : s.inPos.toNat < 2 ^ 35 := by
  have hid := s.hdr.idLength.isLt
  have hfill := h.fill.2
  have hoff := pixelOffset_lt s.hdr
  have hpix := s.pix.isLt
  have hahead : aheadBytes s ≤ 5 := by unfold aheadBytes; split_ifs <;> decide
  have hpos := h.pos
  unfold posInPhase at hpos
  cases hp : s.phase <;> simp [hp, Phase.loading] at hpos hl <;> omega

/-- In a load the invariant gives all that its failure path needs. -/
theorem Inv.failing (h : Inv s) (hl : s.phase.loading = true) : Failing s :=
  have hlen := Memory.length_of_keys_range h.cmap
  { h.kept with
    loading := hl
    cmapKeys := by rw [hlen]; exact h.cmap
    filled := by rw [hlen]; exact h.fill
    inside := by
      have : s.phase ≠ .decoded := fun hd => by simp [hd, Phase.loading] at hl
      simpa [this] using h.overrun
    bound := by have := h.inPos_lt hl; omega }

/-- The command port, REFUSED and the counter of the free values are no part of the invariant. -/
theorem Inv.port (h : Inv s) (cmds : List HostCmd) (resp : Option Response) (refused : Bool) (epoch : Nat) :
    Inv { s with cmds := cmds, resp := resp, refused := refused, epoch := epoch } := { h with }

/-- The phases before LOAD_CMAP. -/
def Phase.beforeCmap : Phase → Bool
  | .unopened | .opened | .loadHdr | .loadId => true
  | .loadCmap | .loadDispatch | .loadPixel | .decoded | .closed => false

theorem filledEntries_beforeCmap (hp : s.phase.beforeCmap = true) : filledEntries s = 0 :=
  filledEntries_early (by cases h : s.phase <;> simp_all [Phase.beforeCmap])

/-- Before LOAD_CMAP neither the colormap nor CMAP_COUNT holds anything. -/
theorem Inv.cmap_empty (h : Inv s) (hp : s.phase.beforeCmap = true) : s.cmap = [] ∧ s.cmapCount = 0 := by
  have hk := h.cmap
  rw [filledEntries_beforeCmap hp] at hk
  refine ⟨Memory.eq_nil_of_keys_range hk, h.uncounted ?_ ?_⟩ <;>
    cases hs : s.phase <;> simp_all [Phase.beforeCmap, Phase.beforePixels, Phase.cmapDone]

/-- Before LOAD_CMAP, with an empty colormap, the invariant is `Blank` and what the phase says of the header and the
stream. -/
theorem Blank.inv_beforeCmap (b : Blank s) (hp : s.phase.beforeCmap = true) (hc : s.cmap = [] ∧ s.cmapCount = 0)
    (header : s.phase = .unopened ∨ s.phase = .opened ∨ s.phase = .loadHdr → s.hdr = zeroHeader)
    (attached : s.stream.isSome = s.phase.attached)
    (within : ∀ st, s.stream = some st → s.inPos.toNat ≤ st.bytes.length) (pos : posInPhase s) : Inv s := by
  have hf := filledEntries_beforeCmap hp
  have hb : s.phase.beforePixels = true ∧ s.phase.cmapDone = false := by
    cases hs : s.phase <;> simp_all [Phase.beforeCmap, Phase.beforePixels, Phase.cmapDone]
  exact b.inv hb.1 header (by rw [hf, hc.1]; rfl) (by simp [hf]) (by simp [hc.2, hb.2]) attached within pos

/-- The state after a reset meets the invariant, whatever the parameter MAX_PIXEL_COUNT. -/
theorem inv_reset (m : Nat) : Inv { State.reset with maxPixelCount := m } :=
  Blank.inv_beforeCmap ⟨rfl, rfl, rfl, rfl, rfl, rfl, rfl⟩ rfl ⟨rfl, rfl⟩ (fun _ => rfl) rfl
    (fun _ h => by cases h) rfl

/-- A failed OPEN records IOError in UNOPENED (R242). -/
theorem Inv.openFails (h : Inv s) (hp : s.phase = .unopened) :
    Inv { s with error := { s.error with code := .ioError, phase := .unopened } } :=
  { h with
    closed := fun hc => by rw [hp] at hc; cases hc
    clear := fun hc => ⟨(h.clear hc).1, rfl, .inr ⟨hp, rfl⟩⟩ }

/-- OPEN attaches the stream at position 0 (R241). -/
theorem Inv.opens (h : Inv s) (hp : s.phase = .unopened) (he : s.error.code = .none) (st : Stream) :
    Inv { s with stream := some st, inPos := 0, phase := .opened } :=
  Blank.inv_beforeCmap { h.blank (by rw [hp]; rfl) he with } rfl (h.cmap_empty (by rw [hp]; rfl))
    (fun _ => h.header (.inl hp)) rfl (fun _ _ => Nat.zero_le _) rfl

/-- LOAD begins in LOAD_HDR (R243). -/
theorem Inv.load (h : Inv s) (hp : s.phase = .opened) : Inv { s with phase := .loadHdr } := by
  have hpos := h.pos
  have hatt := h.attached
  simp only [posInPhase, hp] at hpos hatt
  exact Blank.inv_beforeCmap { h.blank_of_loading (by rw [hp]; rfl) (by simp [hp]) with } rfl
    (h.cmap_empty (by rw [hp]; rfl)) (fun _ => h.header (.inr (.inl hp))) hatt h.within hpos

/-- A read in a load advances IN_POS without wrap (R38). -/
theorem Inv.toNat_advance (h : Inv s) (hl : s.phase.loading = true) {n : Nat} (hn : n < 2 ^ 20) :
    (s.inPos + BitVec.ofNat 64 n).toNat = s.inPos.toNat + n :=
  pos_add_toNat (by have := h.inPos_lt hl; omega) hn

/-- A read that the attached stream holds ends inside the stream. -/
theorem within_of_stream {st : Stream} {n : Nat} (hst : s.stream = some st) (hl : n ≤ st.bytes.length) :
    ∀ st', s.stream = some st' → n ≤ st'.bytes.length := by
  rintro st' h'; cases hst.symm.trans h'; exact hl

/-- HDR_CAPTURE writes the header and the sizes derived from it (R131, R133). -/
theorem Inv.header_captured (h : Inv s) (hp : s.phase = .loadHdr) {st : Stream} (hst : s.stream = some st)
    {q : BitVec 64} (hq : q.toNat = s.inPos.toNat + 18) (hl : q.toNat ≤ st.bytes.length) (hd : Header) :
    Inv { s with inPos := q, hdr := hd, sizes := sizesOf hd, phase := .loadId } := by
  have hpos : s.inPos.toNat = 0 := by simpa only [posInPhase, hp] using h.pos
  exact Blank.inv_beforeCmap
    { h.blank_of_loading (by rw [hp]; rfl) (by simp [hp]) with sizes := rfl } rfl (h.cmap_empty (by rw [hp]; rfl))
    (by simp) (by simp [hst, Phase.attached]) (within_of_stream hst hl) (by simp only [posInPhase]; omega)

/-- ID_CONSUME leads to colormap entry 0 (R135, R117). -/
theorem Inv.id_consumed (h : Inv s) (hp : s.phase = .loadId) {st : Stream} (hst : s.stream = some st)
    {q : BitVec 64} (hq : q.toNat = s.inPos.toNat + s.hdr.idLength.toNat) (hl : q.toNat ≤ st.bytes.length)
    (id : List Byte) : Inv { s with inPos := q, idBuf := id, phase := .loadCmap } := by
  have hpos : s.inPos.toNat = 18 := by simpa only [posInPhase, hp] using h.pos
  have hentry : cmapEntryAt q s.hdr = 0 := cmapEntryAt_of_pos (by omega)
  obtain ⟨hcmap, hcount⟩ := h.cmap_empty (by rw [hp]; rfl)
  exact Blank.inv { h.blank_of_loading (by rw [hp]; rfl) (by simp [hp]) with } rfl (by simp)
    (by simp [filledEntries, hentry, hcmap, Memory.keys]) (by simp [filledEntries, hentry]) (by rw [hcount]; rfl)
    (by simp [hst, Phase.attached]) (within_of_stream hst hl)
    (by simp only [posInPhase, filledEntries, hentry]; omega)

/-- CMAP_FILL fills the entry at IN_POS and leads to the next one (R150, R152). -/
theorem Inv.cmap_filled (h : Inv s) (hp : s.phase = .loadCmap) (hn : (cmapEntries s.hdr).toNat ≤ 256)
    (hk : cmapEntryAt s.inPos s.hdr < (cmapEntries s.hdr).toNat) {st : Stream} (hst : s.stream = some st)
    {q : BitVec 64} (hq : q.toNat = s.inPos.toNat + 3) (hl : q.toNat ≤ st.bytes.length) (e : BitVec 24) :
    Inv { s with cmap := Memory.write s.cmap (cmapEntryAt s.inPos s.hdr) e, inPos := q } := by
  have hpos := h.pos
  have hcmap := h.cmap
  simp only [posInPhase, filledEntries, hp] at hpos hcmap
  have hnext : cmapEntryAt q s.hdr = cmapEntryAt s.inPos s.hdr + 1 := cmapEntryAt_of_pos (by omega)
  exact
    { h with
      cmap := by simp only [filledEntries, hp, hnext]; exact Memory.keys_writes_range s.cmap _ [e] hcmap
      fill := by simp only [filledEntries, hp, hnext]; omega
      within := within_of_stream hst hl
      pos := by simp only [posInPhase, filledEntries, hp, hnext]; omega }

/-- After the last entry CMAP_COUNT counts the entries declared (R151). -/
theorem Inv.cmap_counted (h : Inv s) (hp : s.phase = .loadCmap) (hn : (cmapEntries s.hdr).toNat ≤ 256)
    (hk : (cmapEntries s.hdr).toNat ≤ cmapEntryAt s.inPos s.hdr) :
    Inv { s with cmapCount := (cmapEntries s.hdr).setWidth 9, phase := .loadDispatch } := by
  have hpos := h.pos
  have hcmap := h.cmap
  have hfill := h.fill
  have hatt := h.attached
  simp only [posInPhase, filledEntries, hp] at hpos hcmap hfill hatt
  have hall : cmapEntryAt s.inPos s.hdr = (cmapEntries s.hdr).toNat := by omega
  have hcount : ((cmapEntries s.hdr).setWidth 9).toNat = (cmapEntries s.hdr).toNat := by
    rw [BitVec.toNat_setWidth]; omega
  rw [hall] at hpos hcmap
  exact Blank.inv { h.blank_of_loading (by rw [hp]; rfl) (by simp [hp]) with } rfl (by simp) hcmap
    ⟨le_refl _, hn⟩ hcount hatt h.within hpos

/-- A strategy whose image fits enters LOAD_PIXEL at pixel 0, with no packet open (R190, R201). -/
theorem Inv.selected_fits (h : Inv s) (hp : s.phase = .loadDispatch) {st : Strategy} (hst : st ≠ .none)
    (hfits : s.sizes.pixelCount.toNat ≤ s.maxPixelCount) :
    Inv { setIdxPresent st { s with strategy := st } with pix := 0, pkt := zeroPacket, phase := .loadPixel } := by
  have b := h.blank_of_loading (by rw [hp]; rfl) (by simp [hp])
  have hpos := h.pos
  have hcmap := h.cmap
  have hfill := h.fill
  have hatt := h.attached
  simp only [posInPhase, filledEntries, hp] at hpos hcmap hfill hatt
  exact
    { h with
      header := by simp
      rgb := by simp [b.out, Memory.keys]
      argb := by simp [b.out, Memory.keys]
      idx := by simp [b.out, Memory.keys]
      cmap := hcmap
      fill := hfill
      counted := fun _ => h.counted (by rw [hp]; rfl)
      uncounted := by simp [Phase.beforePixels]
      pix := Nat.zero_le _
      packet := ⟨Nat.zero_le _, Nat.zero_le _⟩
      early := by simp [Phase.beforePixels]
      rawPacket := fun _ => rfl
      present := rfl
      selected := fun _ => ⟨hst, hfits⟩
      valid := by simp [b.flags]
      overrun := by simp [b.flags]
      done := by simp
      attached := hatt
      pos := ⟨hpos.ge, hpos.le.trans (Nat.le_add_right_of_le (Nat.le_add_right _ _))⟩
      closed := by simp
      clear := fun _ => by simp [b.error] }

/-- In LOAD_PIXEL, IN_POS is at most five bytes a pixel past the start of the pixel data, and what is read ahead. -/
theorem posInPhase_loadPixel (hp : s.phase = .loadPixel) :
    posInPhase s ↔ pixelOffset s.hdr ≤ s.inPos.toNat ∧
      s.inPos.toNat ≤ pixelOffset s.hdr + 5 * s.pix.toNat + aheadBytes s := by rw [posInPhase, hp]

/-- What a step inside PIXEL_LOOP has to show of the registers it moves: IN_POS, the packet, PIX and the buffers. -/
theorem Inv.in_loop (h : Inv s) (hp : s.phase = .loadPixel) {q : BitVec 64} {k : Packet} {x : BitVec 32} {o : Buffers}
    (rgb : Memory.keys o.rgb = List.range (3 * x.toNat)) (argb : Memory.keys o.argb = List.range (4 * x.toNat))
    (idx : Memory.keys o.idx = List.range (if s.flags.idxPresent then x.toNat else 0))
    (pix : x.toNat ≤ s.sizes.pixelCount.toNat) (packet : k.remain.toNat ≤ k.len.toNat ∧ k.len.toNat ≤ 128)
    (rawPacket : s.strategy.isRle = false → k = zeroPacket)
    (within : ∀ st, s.stream = some st → q.toNat ≤ st.bytes.length) (hge : pixelOffset s.hdr ≤ q.toNat)
    (hle : q.toNat ≤ pixelOffset s.hdr + 5 * x.toNat + aheadBytes { s with pkt := k }) :
    Inv { s with inPos := q, pkt := k, pix := x, out := o } := by
  have hcmap := h.cmap
  have hfill := h.fill
  simp only [filledEntries, hp] at hcmap hfill
  exact
    { h with
      rgb, argb, idx, pix, packet, rawPacket, within
      cmap := by simpa only [filledEntries, hp] using hcmap
      fill := by simpa only [filledEntries, hp] using hfill
      early := by simp [hp, Phase.beforePixels]
      overrun := by simpa [hp] using h.overrun
      done := by simp [hp]
      pos := (posInPhase_loadPixel (by exact hp)).mpr ⟨hge, hle⟩
      closed := by simp [hp] }

/-- A packet header, with a RUN packet's payload, opens a packet (R172, R174). -/
theorem Inv.packet_opened (h : Inv s) (hp : s.phase = .loadPixel) (hrle : s.strategy.isRle = true)
    (hr : s.pkt.remain = 0) {st : Stream} (hst : s.stream = some st) {q : BitVec 64} {enc : Bool}
    (hge : s.inPos.toNat ≤ q.toNat) (hle : q.toNat ≤ s.inPos.toNat + if enc then 5 else 1)
    (hl : q.toNat ≤ st.bytes.length) (n : BitVec 7) (v : BitVec 32) :
    Inv { s with inPos := q, pkt := ⟨enc, runLength n, runLength n, v⟩ } := by
  have hlen := runLength_toNat n
  have hne : runLength n ≠ 0 := fun h0 => by simp [h0] at hlen
  have hpos := (posInPhase_loadPixel hp).mp h.pos
  rw [aheadBytes, if_pos hr] at hpos
  exact h.in_loop hp h.rgb h.argb h.idx h.pix ⟨le_refl _, by have := n.isLt; simp only; omega⟩
    (fun hraw => by simp [hrle] at hraw) (within_of_stream hst hl) (by omega)
    (by simp only [aheadBytes, if_neg hne]; omega)

/-- The payload of a pixel ends inside the stream, and at most five bytes a pixel past the start of the pixel data. -/
theorem PayloadFrom.bounds {p : Nat} {u : State} (hu : PayloadFrom p s u) (h : Inv s) (hp : s.phase = .loadPixel)
    (hp4 : p ≤ 4) : ∃ q : BitVec 64, u = { s with inPos := q } ∧
      (∀ st, s.stream = some st → q.toNat ≤ st.bytes.length) ∧ pixelOffset s.hdr ≤ q.toNat ∧
      q.toNat ≤ pixelOffset s.hdr + 5 * (s.pix.toNat + 1) := by
  have hpos := (posInPhase_loadPixel hp).mp h.pos
  rcases hu with ⟨-, hrem, henc, rfl⟩ | ⟨hraw, st, hst, hl, rfl⟩
  · rw [aheadBytes, if_neg hrem, if_pos henc] at hpos
    exact ⟨u.inPos, rfl, h.within, hpos.1, by omega⟩
  · have hadd := h.toNat_advance (by rw [hp]; rfl) (n := p) (by omega)
    have henc : s.pkt.enc = false := by
      cases hrle : s.strategy.isRle with
      | true => exact (hraw hrle).2
      | false => rw [h.rawPacket hrle]; rfl
    have hahead : aheadBytes s ≤ 1 := by
      rw [aheadBytes, henc, if_neg Bool.false_ne_true]; split <;> decide
    exact ⟨_, rfl, within_of_stream hst (by omega), by omega, by omega⟩

/-- In an RLE strategy the payload of a pixel is taken inside a packet. -/
theorem PayloadFrom.remain_ne {p : Nat} {u : State} (hu : PayloadFrom p s u) (hrle : s.strategy.isRle = true) :
    s.pkt.remain ≠ 0 := by
  rcases hu with ⟨-, hrem, -⟩ | ⟨hraw, -⟩
  · exact hrem
  · exact (hraw hrle).1

/-- A pixel's iteration, whose bytes extend the buffers by one pixel, leads to the next pixel (R81, R194). -/
theorem Inv.pixel_completed (h : Inv s) (hp : s.phase = .loadPixel) (hi : s.pix.toNat < s.sizes.pixelCount.toNat)
    {p : Nat} {u : State} (hp4 : p ≤ 4) (hu : PayloadFrom p s u) {o : Buffers}
    (rgb : Memory.keys o.rgb = List.range (3 * s.pix.toNat + 3))
    (argb : Memory.keys o.argb = List.range (4 * s.pix.toNat + 4))
    (idx : Memory.keys o.idx = List.range (if s.flags.idxPresent then s.pix.toNat + 1 else 0)) :
    Inv (completePixel { u with out := o }) := by
  obtain ⟨q, rfl, hwithin, hge, hle⟩ := hu.bounds h hp hp4
  have hnext : (s.pix + 1).toNat = s.pix.toNat + 1 := by
    have := s.sizes.pixelCount.isLt
    rw [BitVec.toNat_add, show (1 : BitVec 32).toNat = 1 from rfl]; omega
  refine h.in_loop hp (by rw [hnext]; exact rgb) (by rw [hnext]; exact argb) (by rw [hnext]; exact idx)
    (by rw [hnext]; exact hi) ?packet ?rawPacket hwithin hge
    (by rw [hnext]; exact hle.trans (Nat.le_add_right _ _))
  case packet =>
    simp only
    split
    · rename_i hrle
      have hrem : (s.pkt.remain - 1).toNat ≤ s.pkt.remain.toNat := by
        have := hu.remain_ne hrle
        bv_omega
      exact ⟨hrem.trans h.packet.1, h.packet.2⟩
    · exact h.packet
  case rawPacket => exact fun hraw => by simpa [hraw] using h.rawPacket hraw

/-- The end of the loop leads to DECODED with every pixel produced (R177, R197). -/
theorem Inv.finish (h : Inv s) (hp : s.phase = .loadPixel) (hi : s.sizes.pixelCount.toNat ≤ s.pix.toNat) :
    Inv (finish s) := by
  have hcmap := h.cmap
  have hfill := h.fill
  have hover : s.flags.pktOverrun = false := (h.failing (by rw [hp]; rfl)).inside
  have hremain : 0 < s.pkt.remain.toNat ↔ s.pkt.remain ≠ 0 := by bv_omega
  have hclear := h.clear (by simp [hp])
  simp only [filledEntries, hp] at hcmap hfill
  exact
    { h with
      header := by simp
      cmap := hcmap
      fill := hfill
      counted := fun _ => h.counted (by rw [hp]; rfl)
      uncounted := by simp [Phase.beforePixels]
      early := by simp [Phase.beforePixels]
      selected := fun _ => h.selected (.inl hp)
      valid := by simp
      overrun := by simp [hover, hremain]
      done := fun _ => BitVec.eq_of_toNat_eq (le_antisymm h.pix hi)
      attached := rfl
      within := by simp
      pos := (h.failing (by rw [hp]; rfl)).bound
      closed := by simp
      clear := fun _ => by simpa [hp] using hclear }

/-- A short read consumes the stream, which ends in less than a unit's length past IN_POS (R75). -/
theorem ShortAt.toNat_length {n L : Nat} (hs : ShortAt n s L) (h : Inv s) :
    s.phase.loading = true ∧ (BitVec.ofNat 64 L).toNat = L ∧ s.inPos.toNat ≤ L ∧ L < s.inPos.toNat + n := by
  obtain ⟨hn, hp, st, hst, hlt, -, rfl⟩ := hs
  have hl : s.phase.loading = true := by rcases hp with hp | hp | hp | hp <;> rw [hp] <;> rfl
  have hpos := h.inPos_lt hl
  exact ⟨hl, by rw [BitVec.toNat_ofNat]; omega, h.within st hst, hlt⟩

/-- The error of a short read is an error (R262). -/
theorem shortError_ne_none (p : Phase) : shortError p ≠ .none := by cases p <;> decide

/-- The bytes of a pixel's colours continue OUT_RGB and OUT_ARGB (R81). -/
theorem Kept.emitColor_keys (h : Kept s) (a r g b : Byte) :
    Memory.keys (emitColor a r g b s).out.rgb = List.range (3 * s.pix.toNat + 3) ∧
      Memory.keys (emitColor a r g b s).out.argb = List.range (4 * s.pix.toNat + 4) :=
  ⟨Memory.keys_writes_range _ _ [r, g, b] h.rgb, Memory.keys_writes_range _ _ [a, r, g, b] h.argb⟩

/-- The index of a pixel continues OUT_IDX (R81). -/
theorem Kept.emitIndex_keys (h : Kept s) (hx : s.flags.idxPresent = true) (i : Byte) :
    Memory.keys (emitIndex i s).out.idx = List.range (s.pix.toNat + 1) := by
  have haddr : pixelAddr .idx s.pix = s.pix.toNat := Nat.one_mul _
  rw [emitIndex_out, haddr]
  exact Memory.keys_writes_range _ _ [i] (by rw [h.idx, if_pos hx])

/-- Past a packet header, a RUN packet's payload advances IN_POS without wrap. -/
theorem Inv.toNat_advance_run (h : Inv s) (hp : s.phase = .loadPixel) {p : Nat} (hp4 : p ≤ 4) :
    (s.inPos + 1).toNat = s.inPos.toNat + 1 ∧ (s.inPos + 1 + BitVec.ofNat 64 p).toNat = s.inPos.toNat + 1 + p := by
  have hpos := h.inPos_lt (by rw [hp]; rfl)
  have hone : (s.inPos + 1).toNat = s.inPos.toNat + 1 := h.toNat_advance (by rw [hp]; rfl) (n := 1) (by omega)
  exact ⟨hone, by rw [pos_add_toNat (by omega) (by omega), hone]⟩

/-- The end of a stream that stops inside a RUN packet's payload is a position (R38). -/
theorem Inv.toNat_runEnd (h : Inv s) (hp : s.phase = .loadPixel) {p L : Nat} (hp4 : p ≤ 4)
    (hL : L < (s.inPos + 1).toNat + p) : (BitVec.ofNat 64 L).toNat = L ∧ L ≤ s.inPos.toNat + 5 := by
  have hpos := h.inPos_lt (by rw [hp]; rfl)
  have hone := (h.toNat_advance_run hp hp4).1
  exact ⟨by rw [BitVec.toNat_ofNat]; omega, by omega⟩

/-- Every step keeps the invariant, case by case. -/
theorem StepCase.inv (hc : StepCase s t) (h : Inv s) : Inv t := by
  cases hc with
  | idle => exact h
  | reset c rest => exact (inv_reset s.maxPixelCount).port rest _ false (s.epoch + 1)
  | openFails c rest hp => exact (h.openFails hp).port rest _ _ _
  | opens c rest st hp _ _ he => exact (h.opens hp he st).port rest _ _ _
  | load c rest hp => exact (h.load hp).port rest _ _ _
  | answer c rest => exact h.port rest _ _ _
  | refused c rest => exact h.port rest _ _ _
  | short n L hs =>
    obtain ⟨hl, hL, -, hlt⟩ := hs.toNat_length h
    have hn := hs.1
    have hpos := h.inPos_lt hl
    have hf : Failing { s with inPos := BitVec.ofNat 64 L } := { h.failing hl with bound := by simp only [hL]; omega }
    exact hf.inv_raise (shortError_ne_none _)
  | header st hd hp hst hl =>
    have hq := h.toNat_advance (by rw [hp]; rfl) (n := 18) (by omega)
    exact h.header_captured hp hst hq (hq.trans_le hl) hd
  | imageId st hp hst hl =>
    have hid := s.hdr.idLength.isLt
    have hq := h.toNat_advance (by rw [hp]; rfl) (n := s.hdr.idLength.toNat) (by omega)
    exact h.id_consumed hp hst hq (hq.trans_le hl) _
  | cmapTooLarge hp => exact (h.failing (by rw [hp]; rfl)).inv_raise (by decide)
  | cmapEntry st e hp hn hk hst hl =>
    have hq := h.toNat_advance (by rw [hp]; rfl) (n := 3) (by omega)
    exact h.cmap_filled hp hn hk hst hq (hq.trans_le hl) e
  | cmapDone hp hn hk => exact h.cmap_counted hp hn hk
  | select st hp hs =>
    rcases selectStrategy_cases st s with ⟨hfits, heq⟩ | heq <;> rw [heq]
    · exact h.selected_fits hp hs hfits
    · have b := h.blank_of_loading (by rw [hp]; rfl) (by simp [hp])
      have hf : Failing (setIdxPresent st { s with strategy := st }) :=
        { h.failing (by rw [hp]; rfl) with
          idx := by simp [b.out, b.pix, Memory.keys]
          rawPacket := fun _ => b.pkt
          present := rfl }
      exact hf.inv_raise (by decide)
  | unsupported hp => exact (h.failing (by rw [hp]; rfl)).inv_raise (by decide)
  | rawPacket n st hp hs _ hr hst hl =>
    have hq := h.toNat_advance (by rw [hp]; rfl) (n := 1) (by omega)
    exact h.packet_opened (enc := false) hp hs hr hst (Nat.le.intro hq.symm) hq.le (hq.trans_le hl) n s.pkt.payload
  | runPacket n st sl p v hp hs hpay _ hr hst hl hl2 =>
    have hp4 := payload_length_le hpay
    obtain ⟨hone, hq⟩ := h.toNat_advance_run hp hp4
    exact h.packet_opened (enc := true) hp hs hr hst (by omega) (by rw [if_pos rfl]; omega) (by omega) n v
  | runShort n st sl p hp hs hpay _ hr hst hl hl2 =>
    obtain ⟨hL, hle⟩ := h.toNat_runEnd hp (payload_length_le hpay) hl2
    have ho := h.packet_opened (q := BitVec.ofNat 64 st.bytes.length) (enc := true) hp hs hr hst (by omega)
      (by rw [if_pos rfl]; omega) hL.le n s.pkt.payload
    exact (ho.failing (by simp only [hp]; rfl)).inv_raise (by decide)
  | color u sl p a r g b hp hpay hsl hi hu =>
    obtain ⟨q, rfl⟩ := hu.eq_inPos
    obtain ⟨hrgb, hargb⟩ := h.kept.emitColor_keys a r g b
    have hidx : s.flags.idxPresent = false := by
      rw [h.present, Bool.eq_false_iff, ne_eq, isIndexed_iff_px8 hpay]; exact hsl
    exact h.pixel_completed hp hi (payload_length_le hpay) hu hrgb hargb (h.idx.trans (by simp [hidx]))
  | lookupFails u idx hp hpay hi hu =>
    obtain ⟨q, rfl, -, -, hle⟩ := hu.bounds h hp (by omega)
    have hoff := pixelOffset_lt s.hdr
    have hpix := s.pix.isLt
    have hf : Failing { s with inPos := q } := { h.failing (by rw [hp]; rfl) with bound := by simp only; omega }
    exact hf.inv_raise (by decide)
  | lookup u idx a r g b hp hpay hi hu =>
    obtain ⟨q, rfl⟩ := hu.eq_inPos
    obtain ⟨hrgb, hargb⟩ := h.kept.emitColor_keys a r g b
    have hidx : s.flags.idxPresent = true := by rw [h.present, isIndexed_iff_px8 hpay]
    exact h.pixel_completed hp hi (by omega) hu hrgb hargb
      (by rw [if_pos hidx]; exact h.kept.emitIndex_keys hidx idx)
  | finish hp _ hi => exact h.finish hp hi

end Sys2Proof.Machine

open Sys2Proof.Machine

/-- Settles O53, by the cases of a step. -/
theorem stepKeepsInvariant : Obligations.StepKeepsInvariant := fun _ _ h hstep => (stepCase_of_step hstep).inv h

/-- Settles O54: the state after reset is the one of power-on, with MAX_PIXEL_COUNT at its default. -/
theorem resetMeetsInvariant : Obligations.ResetMeetsInvariant := inv_reset _

/-- Settles O34: every value is the one written in `State.reset`. -/
theorem resetValues : Obligations.ResetValues :=
  ⟨rfl, rfl, rfl, rfl, rfl, rfl, rfl, rfl, rfl, rfl, rfl, rfl, rfl, rfl, rfl⟩

end

section
/-! What every step keeps of the position, the refusal mark, the phase and the memories (10_state.md R32, R38, R45,
R47, R50). -/

namespace Sys2Proof.Machine
variable {s t : State}

/-- Choosing a strategy leaves REFUSED, IN_POS and every memory, whether the image fits or not. -/
theorem selectStrategy_frame (st : Strategy) (s : State) :
    (selectStrategy st s).refused = s.refused ∧ (selectStrategy st s).inPos = s.inPos ∧
      (selectStrategy st s).cmap = s.cmap ∧ (selectStrategy st s).out = s.out := by
  rcases selectStrategy_cases st s with ⟨-, h⟩ | h <;> rw [h] <;> exact ⟨rfl, rfl, rfl, rfl⟩

/-- Taking a payload does not move IN_POS back. -/
theorem PayloadFrom.inPos_le {p : Nat} {u : State} (hu : PayloadFrom p s u) (h : Inv s) (hp : s.phase = .loadPixel)
    (hp4 : p ≤ 4) : s.inPos.toNat ≤ u.inPos.toNat := by
  rcases hu with ⟨-, -, -, rfl⟩ | ⟨-, st, -, -, rfl⟩
  · exact Nat.le_refl _
  · exact Nat.le.intro (h.toNat_advance (by rw [hp]; rfl) (by omega)).symm

/-- No step but a RESET moves IN_POS back. -/
theorem StepCase.inPos_le (hc : StepCase s t) (h : Inv s) : resetPending s ∨ s.inPos.toNat ≤ t.inPos.toNat := by
  cases hc with
  | reset c rest hp hc hcode => exact .inl (⟨hp, c, rest, hc, hcode⟩)
  | opens c rest st hp =>
    have hpos : s.inPos.toNat = 0 := by simpa only [posInPhase, hp] using h.pos
    exact .inr (hpos.le.trans (Nat.zero_le _))
  | short n L hs =>
    obtain ⟨-, hL, hle, -⟩ := hs.toNat_length h
    exact .inr (hle.trans hL.ge)
  | header st hd hp => exact .inr (Nat.le.intro (h.toNat_advance (by rw [hp]; rfl) (n := 18) (by omega)).symm)
  | imageId st hp =>
    have hid := s.hdr.idLength.isLt
    exact .inr (Nat.le.intro (h.toNat_advance (by rw [hp]; rfl) (by omega)).symm)
  | cmapEntry st e hp => exact .inr (Nat.le.intro (h.toNat_advance (by rw [hp]; rfl) (n := 3) (by omega)).symm)
  | rawPacket n st hp => exact .inr (Nat.le.intro (h.toNat_advance (by rw [hp]; rfl) (n := 1) (by omega)).symm)
  | runPacket n st sl p v hp hs hpay =>
    obtain ⟨-, hq⟩ := h.toNat_advance_run hp (payload_length_le hpay)
    exact .inr (by simp only [hq]; omega)
  | runShort n st sl p hp hs hpay hi hr hst hl hl2 =>
    have hL := (h.toNat_runEnd hp (payload_length_le hpay) hl2).1
    exact .inr (by rw [raise_inPos]; simp only [hL]; omega)
  | color u sl p a r g b hp hpay hsl hi hu => exact .inr (hu.inPos_le h hp (payload_length_le hpay))
  | lookupFails u idx hp hpay hi hu => exact .inr (hu.inPos_le h hp (by omega))
  | lookup u idx a r g b hp hpay hi hu => exact .inr (hu.inPos_le h hp (by omega))
  | select st => exact .inr (by rw [(selectStrategy_frame st s).2.1])
  | idle | openFails | load | answer | refused | cmapTooLarge | cmapDone | unsupported | finish =>
    exact .inr (Nat.le_refl _)

/-- No step but a RESET clears REFUSED, and only the answer `refused` sets it. -/
theorem StepCase.refused_cases (hc : StepCase s t) :
    (resetPending s ∧ t.refused = false) ∨ t.refused = s.refused ∨
      (t.refused = true ∧ t.resp = some ⟨.refused, .none⟩) := by
  cases hc with
  | reset c rest hp hc hcode => exact .inl ⟨⟨hp, c, rest, hc, hcode⟩, rfl⟩
  | refused => exact .inr (.inr ⟨rfl, rfl⟩)
  | select st => exact .inr (.inl (selectStrategy_frame st s).1)
  | color u sl p a r g b hp hpay hsl hi hu => obtain ⟨q, rfl⟩ := hu.eq_inPos; exact .inr (.inl rfl)
  | lookupFails u idx hp hpay hi hu => obtain ⟨q, rfl⟩ := hu.eq_inPos; exact .inr (.inl rfl)
  | lookup u idx a r g b hp hpay hi hu => obtain ⟨q, rfl⟩ := hu.eq_inPos; exact .inr (.inl rfl)
  | idle | openFails | opens | load | answer | short | header | imageId | cmapTooLarge | cmapEntry | cmapDone
  | unsupported | rawPacket | runPacket | runShort | finish => exact .inr (.inl rfl)

/-- Where commands are taken, the phase may stay as it is. -/
theorem Phase.mem_successors_self {p : Phase} (h : p.takesCommands = true) : p ∈ p.successors := by
  cases p <;> simp_all [Phase.takesCommands, Phase.successors]

/-- Every phase of a load may end in CLOSED (R266). -/
theorem Phase.closed_mem_successors {p : Phase} (h : p.loading = true) : Phase.closed ∈ p.successors := by
  cases p <;> simp_all [Phase.loading, Phase.successors]

/-- Every step but a RESET leads to a phase that the order of the load allows (R32). -/
theorem StepCase.phase_cases (hc : StepCase s t) :
    (resetPending s ∧ t.phase = .unopened) ∨ t.phase ∈ s.phase.successors := by
  cases hc with
  | reset c rest hp hc hcode => exact .inl ⟨⟨hp, c, rest, hc, hcode⟩, rfl⟩
  | idle hp | answer _ _ _ hp | refused _ _ hp => exact .inr (Phase.mem_successors_self hp)
  | short n L hs =>
    obtain ⟨-, hp, -⟩ := hs
    exact .inr (Phase.closed_mem_successors (by rcases hp with hp | hp | hp | hp <;> rw [hp] <;> rfl))
  | cmapTooLarge hp | unsupported hp | runShort _ _ _ _ hp | lookupFails _ _ hp =>
    exact .inr (Phase.closed_mem_successors (by rw [hp]; rfl))
  | select st hp =>
    rcases selectStrategy_cases st s with ⟨-, heq⟩ | heq <;> rw [heq] <;> exact .inr (by simp [hp, Phase.successors])
  | color u sl p a r g b hp _ _ _ hu | lookup u idx a r g b hp _ _ hu =>
    obtain ⟨q, rfl⟩ := hu.eq_inPos
    exact .inr (by simp [hp, Phase.successors])
  | openFails _ _ hp | opens _ _ _ hp | load _ _ hp | header _ _ hp | imageId _ hp | cmapEntry _ _ hp | cmapDone hp
  | rawPacket _ _ hp | runPacket _ _ _ _ _ hp | finish hp => exact .inr (by simp [hp, Phase.successors])

/-- The four memories are canonical. -/
def Canonical (s : State) : Prop := Memory.wf s.cmap = true ∧ ∀ sp, Memory.wf (s.out.get sp) = true

theorem Canonical.emitColor (h : Canonical s) (a r g b : Byte) : Canonical (emitColor a r g b s) :=
  ⟨h.1, fun sp => outWrites_wf _ sp _ _ _ fun sp' => outWrites_wf _ sp' _ _ _ h.2⟩

theorem Canonical.emitIndex (h : Canonical s) (i : Byte) : Canonical (emitIndex i s) :=
  ⟨h.1, fun sp => outWrites_wf _ sp _ _ _ h.2⟩

/-- Every step keeps the memories canonical. -/
theorem StepCase.canonical (hc : StepCase s t) (h : Canonical s) : Canonical t := by
  cases hc with
  | reset => exact ⟨rfl, fun sp => by cases sp <;> rfl⟩
  | cmapEntry st e => exact ⟨cmapWrite_wf _ e s h.1, h.2⟩
  | color u sl p a r g b _ _ _ _ hu =>
    obtain ⟨q, rfl⟩ := hu.eq_inPos
    exact Canonical.emitColor (s := { s with inPos := q }) h a r g b
  | lookup u idx a r g b _ _ _ hu =>
    obtain ⟨q, rfl⟩ := hu.eq_inPos
    exact (Canonical.emitIndex (s := { s with inPos := q }) h idx).emitColor a r g b
  | lookupFails u idx _ _ _ hu => obtain ⟨q, rfl⟩ := hu.eq_inPos; exact h
  | select st =>
    obtain ⟨-, -, hcmap, hout⟩ := selectStrategy_frame st s
    exact ⟨by rw [hcmap]; exact h.1, by rw [hout]; exact h.2⟩
  | idle | openFails | opens | load | answer | refused | short | header | imageId | cmapTooLarge | cmapDone
  | unsupported | rawPacket | runPacket | runShort | finish => exact h

end Sys2Proof.Machine

open Sys2Proof.Machine

/-- Settles O46, by the cases of a step: a read advances IN_POS without wrap, a short read goes to the stream's end. -/
theorem positionOnlyIncreases : Obligations.PositionOnlyIncreases :=
  fun _ _ h hstep => (stepCase_of_step hstep).inPos_le h

/-- Settles O49, by the cases of a step. -/
theorem refusedIsSticky : Obligations.RefusedIsSticky := by
  intro s t hstep
  rcases (stepCase_of_step hstep).refused_cases with ⟨hreset, hclear⟩ | hkept | ⟨hset, hresp⟩
  · exact ⟨fun _ => .inl hreset, fun _ ht => by simp [hclear] at ht⟩
  · exact ⟨fun hs => .inr (hkept.trans hs), fun hs ht => absurd (hkept.symm.trans ht) (by simp [hs])⟩
  · exact ⟨fun _ => .inr hset, fun _ _ => hresp⟩

/-- Settles O51, by the cases of a step. -/
theorem phasesFollowTheLoadOrder : Obligations.PhasesFollowTheLoadOrder :=
  fun _ _ hstep => (stepCase_of_step hstep).phase_cases

/-- Settles O55, by the cases of a step. -/
theorem stepKeepsMemoriesCanonical : Obligations.StepKeepsMemoriesCanonical := by
  rintro s t hstep ⟨hcmap, hidx, hrgb, hargb⟩
  obtain ⟨hcmap', hout'⟩ := (stepCase_of_step hstep).canonical
    ⟨hcmap, fun | .idx => hidx | .rgb => hrgb | .argb => hargb⟩
  exact ⟨hcmap', hout' .idx, hout' .rgb, hout' .argb⟩

end

section
/-! Which unit the sequencer reads, and that it decodes (10_state.md R39, 30_encoding.md R100, R114). -/

namespace Sys2Proof.Machine
open Sys2Proof.Laws

/-- The instruction of a dispatch key is well formed: UNSUPPORTED stands for no supported key (R112). -/
theorem decodeKey_wellFormed (k : Half) : (decodeKey k).wellFormed = true := by
  unfold decodeKey
  split_ifs <;> simp_all [Instr.wellFormed, supportedKeys]

/-- Bytes of a length that their slot's format allows are a unit, and its instruction is well formed (R100, R114). -/
theorem decode_of_allowed {sl : Slot} {bs : List Byte} (hsl : sl ≠ .hostcmd8)
    (hlen : UnitLength.allowed sl bs.length) :
    ∃ i, decode (plainWord sl bs) = .ok i ∧ i.wellFormed = true := by
  rw [decode_plain hsl]
  cases sl with
  | hostcmd8 => exact absurd rfl hsl
  | hdr18 =>
    obtain ⟨h, hh⟩ := decodeHeader_of_length hlen
    exact ⟨.hdrCapture h, by rw [decodeBytes, hh], rfl⟩
  | idField => exact ⟨.idConsume bs, if_pos hlen, decide_eq_true hlen⟩
  | cmape24 => obtain ⟨b, g, r, rfl⟩ := list_length_three hlen; exact ⟨.cmapFill b g r, rfl, rfl⟩
  | dkey16 => obtain ⟨d, y, rfl⟩ := List.length_eq_two.mp hlen; exact ⟨_, rfl, decodeKey_wellFormed _⟩
  | rlehdr8 =>
    obtain ⟨b, rfl⟩ := list_length_one hlen
    refine ⟨decodeRleHdr b, rfl, ?_⟩
    unfold decodeRleHdr
    split <;> rfl
  | px8 => obtain ⟨x, rfl⟩ := list_length_one hlen; exact ⟨.unpack8 x, rfl, rfl⟩
  | px24 => obtain ⟨b, g, r, rfl⟩ := list_length_three hlen; exact ⟨.unpack24 b g r, rfl, rfl⟩
  | px32 => obtain ⟨b, g, r, a, rfl⟩ := list_length_four hlen; exact ⟨.unpack32 b g r a, rfl, rfl⟩
  | lookup => obtain ⟨x, rfl⟩ := list_length_one hlen; exact ⟨.cmapLookup x, rfl, rfl⟩

/-- A payload's length is the one its slot's format allows (R37, R105 to R107). -/
theorem payload_allowed {st : Strategy} {sl : Slot} {p : Nat} (h : st.payload = some (sl, p)) :
    sl ≠ .hostcmd8 ∧ UnitLength.allowed sl p := by
  rcases payload_cases h with ⟨rfl, rfl⟩ | ⟨rfl, rfl⟩ | ⟨rfl, rfl⟩ <;> exact ⟨by decide, rfl⟩

/-- What the sequencer reads next has the length that its slot's format allows (R39, R83, R100). -/
theorem nextRead_allowed {s : State} {sl : Slot} {n : Nat} (h : nextRead s = some (sl, n)) :
    sl ≠ .hostcmd8 ∧ UnitLength.allowed sl n := by
  unfold nextRead at h
  split at h
  case h_1 => cases h; exact ⟨by decide, rfl⟩
  case h_2 => cases h; exact ⟨by decide, Nat.le_of_lt_succ s.hdr.idLength.isLt⟩
  case h_3 =>
    split at h
    · cases h; exact ⟨by decide, rfl⟩
    · cases h
  case h_4 =>
    split at h
    · cases h
    · rename_i sl' p hpay
      split_ifs at h <;> cases h
      · exact ⟨by decide, rfl⟩
      · exact payload_allowed hpay
  all_goals cases h

/-- A read that the attached stream can fill is a unit of the bytes at IN_POS, with IN_POS after them (R75). -/
theorem fetchStream_of_stream {s : State} {st : Stream} {n : Nat} (sl : Slot) (hst : s.stream = some st)
    (hl : s.inPos.toNat + n ≤ st.bytes.length) :
    fetchStream sl n s = .unit (plainWord sl ((st.bytes.drop s.inPos.toNat).take n))
      { s with inPos := s.inPos + BitVec.ofNat 64 n } := by
  simp only [fetchStream, streamRead, hst, if_pos hl]

/-- Where a command is taken, the next one waiting is fetched (R239). -/
theorem fetch_command {s : State} {c : HostCmd} {rest : List HostCmd} (hp : s.phase.takesCommands = true)
    (hc : s.cmds = c :: rest) : fetch s = .unit ⟨.hostcmd8, [c.code], c.stream⟩ { s with cmds := rest } := by
  cases h : s.phase <;> simp_all [fetch, fetchCommand, Phase.takesCommands]

/-- Inside a RUN packet the latched payload is fetched (R175). -/
theorem fetch_latched {s : State} {sl : Slot} {p : Nat} (hp : s.phase = .loadPixel)
    (hpay : s.strategy.payload = some (sl, p)) (hi : s.pix.toNat < s.sizes.pixelCount.toNat)
    (hrle : s.strategy.isRle = true) (hrem : s.pkt.remain ≠ 0) (henc : s.pkt.enc = true) :
    fetch s = .unit (plainWord sl (leBytes p s.pkt.payload)) s := by
  simp only [fetch, hp, fetchPixel, hpay, if_pos hi, fetchPayload, if_pos hrle, if_neg hrem, if_pos henc]

end Sys2Proof.Machine

open Sys2Proof Sys2Proof.Machine

/-- Settles O8: each clause names what is fetched, which decodes because its length is the one of its slot. -/
theorem stepRunsTheDecodedUnit : Obligations.StepRunsTheDecodedUnit := by
  refine ⟨fun s sl n st hread hst hl => ?read, fun s hp => ?key, fun s sl p hp hpay hi hrle hrem henc => ?latched,
    fun s c rest i hp hc hd => ?command⟩
  case read =>
    obtain ⟨hsl, hallowed⟩ := nextRead_allowed hread
    have hlen : ((st.bytes.drop s.inPos.toNat).take n).length = n := by
      rw [List.length_take, List.length_drop]; omega
    obtain ⟨i, hd, hwf⟩ := decode_of_allowed hsl (hlen.symm ▸ hallowed)
    have hf := (fetch_of_nextRead hread).1.trans (fetchStream_of_stream sl hst hl)
    refine ⟨i, s.inPos + BitVec.ofNat 64 n, fun hlt => ?_, hd, hwf, hf, step_unit hf hd⟩
    rw [BitVec.toNat_add, BitVec.toNat_ofNat]; omega
  case key =>
    have hf : fetch s = .unit (plainWord .dkey16 [s.hdr.pixelDepth, s.hdr.imageType]) s := by
      simp [fetch, hp, keyBytes]
    obtain ⟨i, hd, -⟩ := decode_of_allowed (sl := .dkey16) (bs := [s.hdr.pixelDepth, s.hdr.imageType]) (by decide) rfl
    exact ⟨i, hd, step_unit hf hd⟩
  case latched =>
    obtain ⟨hsl, hallowed⟩ := payload_allowed hpay
    obtain ⟨i, hd, -⟩ := decode_of_allowed hsl ((leBytes_length p s.pkt.payload).symm ▸ hallowed)
    exact ⟨i, hd, step_unit (fetch_latched hp hpay hi hrle hrem henc) hd⟩
  case command => exact step_unit (fetch_command hp hc) hd

end

section
/-! The record, the stream, the parameter and the waiting commands determine the next ones (10_state.md R30). The two
other fields of the model's state, the last response and the counter of the free values, are cleared by `recordView`;
two states agree on the rest when their views are equal, and each part of a step is compared through the view. -/

namespace Sys2Proof.Machine

/-- A state with the last response and the counter of the free values cleared. -/
def recordView (s : State) : State := { s with resp := none, epoch := 0 }

/-- An outcome with its next state seen through `recordView`. -/
def outcomeView : Host.Outcome State Fault Refusal → Host.Outcome State Fault Refusal
  | .next t => .next (recordView t)
  | .fault r => .fault r
  | .refused r => .refused r

/-- A fetch with its state seen through `recordView`. -/
def fetchView : Fetch → Fetch
  | .unit w t => .unit w (recordView t)
  | .seq t => .seq (recordView t)
  | .stop f => .stop f

/-- Equal views: the same record, stream, parameter and waiting commands. -/
theorem recordView_eq_iff {s s' : State} :
    recordView s' = recordView s ↔ s'.toBlockState = s.toBlockState ∧ s'.stream = s.stream ∧
      s'.maxPixelCount = s.maxPixelCount ∧ s'.cmds = s.cmds := by
  cases s; cases s'
  simp [recordView]

/-- A filled entry reads the same whatever the free values. -/
theorem cmapRead_of_filled {s s' : State} {k : Nat} (hc : s'.cmap = s.cmap)
    (hk : (Memory.read s.cmap k).isSome = true) : cmapRead k s' = cmapRead k s := by
  obtain ⟨e, he⟩ := Option.isSome_iff_exists.mp hk
  simp [cmapRead, hc, he]

/-- Two choices by one condition agree through `f` when both branches do. -/
theorem apply_ite_congr {α β : Type} (f : α → β) {c : Prop} [Decidable c] {a a' b b' : α} (ha : c → f a = f a')
    (hb : ¬ c → f b = f b') : f (if c then a else b) = f (if c then a' else b') := by
  split
  · exact ha ‹_›
  · exact hb ‹_›

/-- A pixel's index, looked up among filled entries, is emitted alike. -/
theorem emitIndexed_recordView (idx : Byte) (s : State)
    (hk : idx.toNat < s.cmapCount.toNat → (Memory.read s.cmap idx.toNat).isSome = true) :
    recordView (emitIndexed idx (recordView s)) = recordView (emitIndexed idx s) :=
  apply_ite_congr recordView (fun _ => rfl) fun hc => by
    rw [cmapRead_of_filled (s := s) (s' := recordView s) rfl (hk (Nat.lt_of_not_le hc))]; rfl

theorem accessor_recordView (d d' : Data) (s : State) :
    recordView (accessor d' (recordView s)) = recordView (accessor d s) :=
  apply_ite_congr recordView (fun _ => rfl) fun _ => rfl

theorem selectStrategy_recordView (st : Strategy) (s : State) :
    recordView (selectStrategy st (recordView s)) = recordView (selectStrategy st s) :=
  apply_ite_congr recordView (fun _ => rfl) fun _ => rfl

/-- An answer of the stream port with its state seen through `recordView`. -/
def readView : ReadResult → ReadResult
  | .bytes p t => .bytes p (recordView t)
  | .short t => .short (recordView t)
  | .stop f => .stop f

/-- A stream read leaves the last response and the counter of the free values. -/
theorem streamRead_recordView (n : Nat) (s : State) : streamRead n (recordView s) = readView (streamRead n s) := by
  cases h : streamRead n s with
  | bytes p t =>
    obtain ⟨st, hst, hl, rfl, rfl⟩ := streamRead_bytes h
    simp [streamRead, readView, recordView, hst, hl]
  | short t =>
    obtain ⟨st, hst, hl, he, rfl⟩ := streamRead_short h
    simp [streamRead, readView, recordView, hst, he, Nat.not_le.mpr hl]
  | stop f =>
    rcases streamRead_stop h with ⟨hst, rfl⟩ | ⟨st, hst, hl, he, rfl⟩
    · simp [streamRead, readView, recordView, hst]
    · simp [streamRead, readView, recordView, hst, he, Nat.not_le.mpr hl]

theorem execRunPkt_recordView (n : BitVec 7) (s : State) :
    outcomeView (execRunPkt n (recordView s)) = outcomeView (execRunPkt n s) := by
  unfold execRunPkt
  rw [show (recordView s).strategy = s.strategy from rfl]
  cases s.strategy.payload with
  | none => rfl
  | some x =>
    have hr : streamRead x.2 (openPacket true n (recordView s)) =
        readView (streamRead x.2 (openPacket true n s)) := streamRead_recordView x.2 (openPacket true n s)
    simp only [hr]
    cases streamRead x.2 (openPacket true n s) <;> rfl

/-- What an instruction does to the view depends on the view, where a lookup reads filled entries. -/
theorem exec_recordView (i : Instr) (s : State)
    (hk : ∀ idx, i = .cmapLookup idx ∨ i = .unpack8 idx → idx.toNat < s.cmapCount.toNat →
      (Memory.read s.cmap idx.toNat).isSome = true) :
    outcomeView (exec i (recordView s)) = outcomeView (exec i s) := by
  cases i with
  | cmapLookup idx => exact congrArg Host.Outcome.next (emitIndexed_recordView idx s (hk idx (.inl rfl)))
  | unpack8 idx => exact congrArg Host.Outcome.next (emitIndexed_recordView idx s (hk idx (.inr rfl)))
  | idxRaw8 | tcRaw24 | tcRaw32 | idxRle8 | tcRle24 | tcRle32 =>
    exact congrArg Host.Outcome.next (selectStrategy_recordView _ s)
  | cmdReadHeader | cmdReadCmap | cmdReadIdx | cmdReadRgb24 | cmdReadArgb32 =>
    exact congrArg Host.Outcome.next (accessor_recordView _ _ s)
  | runPkt n => exact execRunPkt_recordView n s
  | cmdOpen o => exact apply_ite_congr outcomeView (fun _ => by cases o <;> rfl) fun _ => rfl
  | cmdLoad => exact apply_ite_congr outcomeView (fun _ => rfl) fun _ => rfl
  | rawPkt | unsupported | hdrCapture | idConsume | cmapFill | unpack24 | unpack32 | cmdReset | cmdReadStatus => rfl

theorem fetchStream_recordView (sl : Slot) (n : Nat) (s : State) :
    fetchView (fetchStream sl n (recordView s)) = fetchView (fetchStream sl n s) := by
  unfold fetchStream
  rw [streamRead_recordView]
  cases streamRead n s <;> rfl

theorem fetchPayload_recordView (sl : Slot) (p : Nat) (s : State) :
    fetchView (fetchPayload sl p (recordView s)) = fetchView (fetchPayload sl p s) :=
  apply_ite_congr fetchView
    (fun _ => apply_ite_congr fetchView (fun _ => fetchStream_recordView _ _ s) fun _ =>
      apply_ite_congr fetchView (fun _ => rfl) fun _ => fetchStream_recordView _ _ s)
    fun _ => fetchStream_recordView _ _ s

theorem fetchPixel_recordView (s : State) : fetchView (fetchPixel (recordView s)) = fetchView (fetchPixel s) := by
  unfold fetchPixel
  rw [show (recordView s).strategy = s.strategy from rfl]
  cases s.strategy.payload with
  | none => rfl
  | some x => exact apply_ite_congr fetchView (fun _ => fetchPayload_recordView _ _ s) fun _ => rfl

theorem fetchCmap_recordView (s : State) : fetchView (fetchCmap (recordView s)) = fetchView (fetchCmap s) :=
  apply_ite_congr fetchView (fun _ => rfl) fun _ =>
    apply_ite_congr fetchView (fun _ => fetchStream_recordView _ _ s) fun _ => rfl

theorem fetchCommand_recordView (s : State) : fetchView (fetchCommand (recordView s)) = fetchView (fetchCommand s) := by
  unfold fetchCommand
  rw [show (recordView s).cmds = s.cmds from rfl]
  cases s.cmds <;> rfl

/-- What is fetched depends on the view. -/
theorem fetch_recordView (s : State) : fetchView (fetch (recordView s)) = fetchView (fetch s) := by
  unfold fetch
  rw [show (recordView s).phase = s.phase from rfl]
  cases s.phase with
  | unopened | opened | decoded | closed => exact fetchCommand_recordView s
  | loadHdr | loadId => exact fetchStream_recordView _ _ s
  | loadCmap => exact fetchCmap_recordView s
  | loadDispatch => rfl
  | loadPixel => exact fetchPixel_recordView s

/-- A rejected unit does to the view what depends on the view. -/
theorem reject_recordView (e : DecodeError) (s : State) :
    outcomeView (reject e (recordView s)) = outcomeView (reject e s) := by cases e <;> rfl

/-- A unit read from the stream is run with the colormap as it was. -/
theorem fetchStream_unit_cmap {sl : Slot} {n : Nat} {s t : State} {w : CodeWord}
    (h : fetchStream sl n s = .unit w t) : t.cmap = s.cmap ∧ t.cmapCount = s.cmapCount := by
  rcases fetchStream_cases sl n s with ⟨p, u, hr, hf⟩ | ⟨u, -, hf⟩ | ⟨f, -, hf⟩ <;> rw [hf] at h <;> cases h
  obtain ⟨st, -, -, -, rfl⟩ := streamRead_bytes hr
  exact ⟨rfl, rfl⟩

/-- A payload or a packet header is run with the colormap as it was. -/
theorem fetchPayload_unit_cmap {sl : Slot} {p : Nat} {s t : State} {w : CodeWord}
    (h : fetchPayload sl p s = .unit w t) : t.cmap = s.cmap ∧ t.cmapCount = s.cmapCount := by
  unfold fetchPayload at h
  split at h
  · split at h
    · exact fetchStream_unit_cmap h
    · split at h
      · cases h; exact ⟨rfl, rfl⟩
      · exact fetchStream_unit_cmap h
  · exact fetchStream_unit_cmap h

/-- Any unit fetched is run with the colormap as it was. -/
theorem fetch_unit_cmap {s t : State} {w : CodeWord} (h : fetch s = .unit w t) :
    t.cmap = s.cmap ∧ t.cmapCount = s.cmapCount := by
  cases hp : s.phase with
  | unopened | opened | decoded | closed =>
    simp only [fetch, hp, fetchCommand] at h
    split at h <;> cases h
    exact ⟨rfl, rfl⟩
  | loadHdr | loadId =>
    simp only [fetch, hp] at h
    exact fetchStream_unit_cmap h
  | loadCmap =>
    simp only [fetch, hp, fetchCmap] at h
    split_ifs at h
    exact fetchStream_unit_cmap h
  | loadDispatch =>
    simp only [fetch, hp] at h
    cases h
    exact ⟨rfl, rfl⟩
  | loadPixel =>
    simp only [fetch, hp, fetchPixel] at h
    split at h
    · cases h
    · split_ifs at h
      exact fetchPayload_unit_cmap h

/-- No host command is a lookup (R118). -/
theorem decodeCmd_ne_lookup {code : Byte} {op : Option Stream} {i : Instr} (h : decodeCmd code op = .ok i)
    (idx : Byte) : i ≠ .cmapLookup idx ∧ i ≠ .unpack8 idx := by
  unfold decodeCmd at h
  split_ifs at h <;> cases h <;> exact ⟨nofun, nofun⟩

/-- Outside CLOSED every entry that CMAP_COUNT counts is filled (R151). -/
theorem Inv.read_isSome_of_lt_count {s : State} (h : Inv s) (hp : s.phase ≠ .closed) {k : Nat}
    (hk : k < s.cmapCount.toNat) : (Memory.read s.cmap k).isSome = true := by
  cases hd : s.phase.cmapDone with
  | true =>
    rw [Memory.read_isSome_of_keys_range h.cmap, filledEntries_done hd, ← h.counted hd]
    exact hk
  | false =>
    have hb : s.phase.beforePixels = true := by
      cases hs : s.phase <;> simp_all [Phase.cmapDone, Phase.beforePixels]
    simp [h.uncounted hb hd] at hk

/-- In a state of a run, a unit that looks an entry up below CMAP_COUNT finds it filled. -/
theorem Inv.lookup_filled {s t : State} {w : CodeWord} {i : Instr} (h : Inv s) (hf : fetch s = .unit w t)
    (hd : decode w = .ok i) (idx : Byte) (hi : i = .cmapLookup idx ∨ i = .unpack8 idx)
    (hk : idx.toNat < t.cmapCount.toNat) : (Memory.read t.cmap idx.toNat).isSome = true := by
  have hp : s.phase ≠ .closed := by
    intro hc
    simp only [fetch, hc, fetchCommand] at hf
    split at hf <;> cases hf
    obtain ⟨h1, h2⟩ := decodeCmd_ne_lookup hd idx
    exact hi.elim h1 h2
  obtain ⟨hcmap, hcount⟩ := fetch_unit_cmap hf
  rw [hcmap]
  exact h.read_isSome_of_lt_count hp (hcount ▸ hk)

/-- The step from what is fetched: the unit decoded and run, the sequencer's own step, or no step. -/
def runFetch : Fetch → Host.Outcome State Fault Refusal
  | .unit w t =>
    match decode w with
    | .ok i => exec i t
    | .error e => reject e t
  | .seq t => .next t
  | .stop f => .fault f

theorem step_eq_runFetch (s : State) : step s = runFetch (fetch s) := rfl

/-- In a state of a run, what a step does to the view depends on the view of what is fetched. -/
theorem Inv.step_view {s : State} (h : Inv s) :
    outcomeView (step s) = outcomeView (runFetch (fetchView (fetch s))) := by
  rw [step_eq_runFetch]
  cases hf : fetch s with
  | seq t => rfl
  | stop f => rfl
  | unit w t =>
    simp only [runFetch, fetchView]
    cases hd : decode w with
    | ok i => exact (exec_recordView i t (h.lookup_filled hf hd)).symm
    | error e => exact (reject_recordView e t).symm

/-- The invariant speaks of no more than the view. -/
theorem Inv.of_recordView_eq {s s' : State} (h : Inv s) (hv : recordView s' = recordView s) : Inv s' :=
  have hs : Inv (recordView s) := h.port s.cmds none s.refused 0
  have hs' : Inv (recordView s') := hv ▸ hs
  hs'.port s'.cmds s'.resp s'.refused s'.epoch

/-- In a state of a run, what a step does to the view depends on the view. -/
theorem Inv.step_congr {s s' : State} (h : Inv s) (hv : recordView s' = recordView s) :
    outcomeView (step s') = outcomeView (step s) := by
  have hfetch : fetchView (fetch s') = fetchView (fetch s) := by
    rw [← fetch_recordView s', ← fetch_recordView s, hv]
  rw [(h.of_recordView_eq hv).step_view, h.step_view, hfetch]

end Sys2Proof.Machine

open Sys2Proof.Machine

/-- Settles O60: the step depends on `recordView` alone, since a lookup of a run reads a filled entry. -/
theorem recordDeterminesTheStep : Obligations.RecordDeterminesTheStep := by
  intro s s' t h hblock hstream hmax hcmds hstep
  have hv := h.step_congr (recordView_eq_iff.mpr ⟨hblock, hstream, hmax, hcmds⟩)
  rw [hstep] at hv
  cases hstep' : step s' with
  | next t' =>
    rw [hstep'] at hv
    exact ⟨t', rfl, recordView_eq_iff.mp (Host.Outcome.next.inj hv)⟩
  | fault r => rw [hstep'] at hv; cases hv
  | refused r => rw [hstep'] at hv; cases hv

end

section
/-! The stream port answers a read with bytes or SHORT when the stream ends, and a load keeps its stream until its last
step (20_memory.md R75, R90). -/

namespace Sys2Proof.Machine
variable {s t : State}

/-- A read that the attached stream holds gives its bytes at IN_POS, and IN_POS moves past them. -/
theorem streamRead_of_le {st : Stream} {n : Nat} (hst : s.stream = some st)
    (hl : s.inPos.toNat + n ≤ st.bytes.length) :
    streamRead n s = .bytes ((st.bytes.drop s.inPos.toNat).take n)
      { s with inPos := s.inPos + BitVec.ofNat 64 n } := by
  simp only [streamRead, hst, if_pos hl]

/-- A read past the end of a stream that ends is SHORT, and consumes the stream (D11). -/
theorem streamRead_of_ended {st : Stream} {n : Nat} (hst : s.stream = some st) (he : st.ended = true)
    (hl : st.bytes.length < s.inPos.toNat + n) :
    streamRead n s = .short { s with inPos := BitVec.ofNat 64 st.bytes.length } := by
  simp only [streamRead, hst, if_neg (Nat.not_le.mpr hl), if_pos he]

/-- No command is taken inside a load (R239). -/
theorem Phase.takesCommands_of_loading {p : Phase} (h : p.loading = true) : p.takesCommands = false := by
  cases p <;> simp_all [Phase.loading, Phase.takesCommands]

/-- A step that takes no command keeps the stream, or releases it at the end of the load (R197, R266). -/
theorem StepCase.stream_cases (hc : StepCase s t) :
    s.phase.takesCommands = true ∨ t.stream = s.stream ∨
      (t.stream = none ∧ (t.phase = .decoded ∨ t.phase = .closed)) := by
  cases hc with
  | idle hp | reset _ _ hp | answer _ _ _ hp | refused _ _ hp => exact .inl hp
  | openFails _ _ hp | opens _ _ _ hp | load _ _ hp => exact .inl (by rw [hp]; rfl)
  | short | cmapTooLarge | unsupported | runShort | lookupFails => exact .inr (.inr ⟨rfl, .inr rfl⟩)
  | finish => exact .inr (.inr ⟨rfl, .inl rfl⟩)
  | select st =>
    rcases selectStrategy_cases st s with ⟨-, heq⟩ | heq <;> rw [heq]
    · exact .inr (.inl rfl)
    · exact .inr (.inr ⟨rfl, .inr rfl⟩)
  | color u _ _ _ _ _ _ _ _ _ _ hu | lookup u _ _ _ _ _ _ _ _ hu =>
    obtain ⟨q, rfl⟩ := hu.eq_inPos
    exact .inr (.inl rfl)
  | header | imageId | cmapEntry | cmapDone | rawPacket | runPacket => exact .inr (.inl rfl)

/-- A step that writes the output buffers is a RESET or an iteration of PIXEL_LOOP, which goes on; any other leaves
them, and in LOAD_PIXEL leaves PIX too (R87, R264). -/
theorem StepCase.out_cases (hc : StepCase s t) :
    resetPending s ∨ (s.phase = .loadPixel ∧ t.phase = .loadPixel) ∨
      (t.out = s.out ∧ (s.phase = .loadPixel → t.pix = s.pix)) := by
  cases hc with
  | reset c rest hp hc hcode => exact .inl ⟨hp, c, rest, hc, hcode⟩
  | color u _ _ _ _ _ _ hp _ _ _ hu | lookup u _ _ _ _ _ hp _ _ hu =>
    obtain ⟨q, rfl⟩ := hu.eq_inPos
    exact .inr (.inl ⟨hp, hp⟩)
  | lookupFails u _ _ _ _ hu =>
    obtain ⟨q, rfl⟩ := hu.eq_inPos
    exact .inr (.inr ⟨rfl, fun _ => rfl⟩)
  | select st hp =>
    obtain ⟨-, -, -, hout⟩ := selectStrategy_frame st s
    exact .inr (.inr ⟨hout, by simp [hp]⟩)
  | idle | openFails | opens | load | answer | refused | short | header | imageId | cmapTooLarge | cmapEntry
  | cmapDone | unsupported | rawPacket | runPacket | runShort | finish => exact .inr (.inr ⟨rfl, fun _ => rfl⟩)

end Sys2Proof.Machine

open Sys2Proof.Machine

/-- Settles O11: a length below 2^64 is a position, so neither answer's IN_POS wraps. -/
theorem streamReadAnswers : Obligations.StreamReadAnswers := by
  intro n s st hst he hL
  constructor
  · intro hl
    have hr := streamRead_of_le hst hl
    refine ⟨_, _, hr, streamRead_length hr, fun i hi => ?_, ?_, rfl⟩
    · rw [List.getElem?_take_of_lt hi, List.getElem?_drop]
    · rw [BitVec.toNat_add, BitVec.toNat_ofNat]; omega
  · intro hl
    exact ⟨_, streamRead_of_ended hst he hl, by rw [BitVec.toNat_ofNat]; omega, rfl⟩

/-- Settles O47, by the cases of a step: the steps that release the stream are those that end the load. -/
theorem streamKeptWhileLoading : Obligations.StreamKeptWhileLoading := by
  intro s t hload hstep
  refine (stepCase_of_step hstep).stream_cases.resolve_left fun hp => ?_
  rw [Phase.takesCommands_of_loading hload] at hp
  cases hp

/-- Settles O50, by the cases of a step: an iteration that writes a pixel stays in LOAD_PIXEL. -/
theorem outputsChangeOnlyInLoadPixel : Obligations.OutputsChangeOnlyInLoadPixel := by
  intro s t hstep
  rcases (stepCase_of_step hstep).out_cases with hreset | ⟨hs, ht⟩ | ⟨hout, hpix⟩
  · exact ⟨fun _ => .inl hreset, fun hp => absurd hreset.1 (by simp [hp, Phase.takesCommands])⟩
  · exact ⟨fun hp => absurd hs hp, fun _ hc => absurd (ht.symm.trans hc) (by decide)⟩
  · exact ⟨fun _ => .inr hout, fun hp _ => ⟨hout, hpix hp⟩⟩

end

section
/-! Where a step can stop (20_memory.md R77, 70_reset_and_hazards.md R305). `FetchCase` says what the sequencer may
fetch; each unit of it decodes, and only a read of the stream, the fetch's own or RUN_PKT's, can fail to answer. -/

namespace Sys2Proof.Machine
open Sys2Proof.Laws
variable {s : State}

/-- What the sequencer fetches: a command, the unit that `nextRead` names, a unit held in registers (the dispatch key or
a latched payload), a step of its own; or nothing, for want of a strategy (R39, R87). -/
inductive FetchCase (s : State) : Fetch → Prop where
  | command : FetchCase s (fetchCommand s)
  | read (sl : Slot) (n : Nat) (h : nextRead s = some (sl, n)) : FetchCase s (fetchStream sl n s)
  | held (sl : Slot) (bs : List Byte) (hcmd : sl ≠ .hostcmd8) (hhdr : sl ≠ .rlehdr8)
      (hlen : UnitLength.allowed sl bs.length) : FetchCase s (.unit (plainWord sl bs) s)
  | own (t : State) : FetchCase s (.seq t)
  | unselected (hp : s.phase = .loadPixel) (hs : s.strategy = .none) : FetchCase s (.stop .noStrategy)

/-- Only NONE has no payload (R37). -/
theorem payload_eq_none {st : Strategy} (h : st.payload = none) : st = .none := by
  cases st <;> simp_all [Strategy.payload]

/-- A payload's slot is not that of a packet header (R37). -/
theorem payload_ne_rlehdr8 {st : Strategy} {sl : Slot} {p : Nat} (h : st.payload = some (sl, p)) : sl ≠ .rlehdr8 := by
  rcases payload_cases h with ⟨rfl, -⟩ | ⟨rfl, -⟩ | ⟨rfl, -⟩ <;> decide

/-- What is read next for a pixel still to be produced: a packet header, nothing inside a RUN packet, or the payload
(R175, R196). -/
theorem nextRead_pixel {sl : Slot} {p : Nat} (hp : s.phase = .loadPixel) (hpay : s.strategy.payload = some (sl, p))
    (hi : s.pix.toNat < s.sizes.pixelCount.toNat) :
    nextRead s = if s.strategy.isRle = true ∧ s.pkt.remain = 0 then some (.rlehdr8, 1)
      else if s.strategy.isRle = true ∧ s.pkt.enc = true then none else some (sl, p) := by
  simp only [nextRead, hp, hpay, if_neg (Nat.not_le.mpr hi)]

/-- A payload is read from the stream, as `nextRead` says, or is the latched one of a RUN packet (R175, R196). -/
theorem fetchCase_payload {sl : Slot} {p : Nat} (hp : s.phase = .loadPixel)
    (hpay : s.strategy.payload = some (sl, p)) (hi : s.pix.toNat < s.sizes.pixelCount.toNat) :
    FetchCase s (fetchPayload sl p s) := by
  have hread := nextRead_pixel hp hpay hi
  obtain ⟨hcmd, hallowed⟩ := payload_allowed hpay
  unfold fetchPayload
  split_ifs with hrle hrem henc
  · exact .read _ _ (by simp [hread, hrle, hrem])
  · exact .held sl _ hcmd (payload_ne_rlehdr8 hpay) ((leBytes_length p s.pkt.payload).symm ▸ hallowed)
  · exact .read _ _ (by rw [hread, if_neg (hrem ·.2), if_neg (henc ·.2)])
  · exact .read _ _ (by rw [hread, if_neg (hrle ·.1), if_neg (hrle ·.1)])

/-- Everything the sequencer can fetch, by phase. -/
theorem fetchCase_fetch (s : State) : FetchCase s (fetch s) := by
  unfold fetch
  split
  case h_1 | h_2 | h_8 | h_9 => exact .command
  case h_3 hp => exact .read _ _ (by rw [nextRead, hp]; rfl)
  case h_4 hp => exact .read _ _ (by rw [nextRead, hp])
  case h_5 hp =>
    simp only [fetchCmap]
    split_ifs with hn hk
    · exact .own _
    · exact .read _ _ (by simp_all [nextRead, Config.cmapEntriesMax, Config.cmapEntryBytes])
    · exact .own _
  case h_6 => exact .held .dkey16 _ (by decide) (by decide) rfl
  case h_7 hp =>
    unfold fetchPixel
    split
    · rename_i hpay; exact .unselected hp (payload_eq_none hpay)
    · rename_i hpay
      split
      · rename_i hi; exact fetchCase_payload hp hpay hi
      · exact .own _

/-- A packet header is read in LOAD_PIXEL only (R83). -/
theorem phase_of_nextRead_rlehdr8 {n : Nat} (h : nextRead s = some (.rlehdr8, n)) : s.phase = .loadPixel := by
  unfold nextRead at h
  split at h
  case h_4 hp => exact hp
  case h_3 => split at h <;> cases h
  all_goals cases h

/-- RUN_PKT is decoded from a packet header only (R104, R112). -/
theorem slot_of_decode_runPkt {sl : Slot} {bs : List Byte} {n : BitVec 7} (hsl : sl ≠ .hostcmd8)
    (h : decode (plainWord sl bs) = .ok (.runPkt n)) : sl = .rlehdr8 := by
  rw [decode_plain hsl] at h
  unfold decodeBytes at h
  split at h
  case h_1 => rfl
  case h_2 => unfold decodeKey at h; split_ifs at h <;> cases h
  case h_3 => split at h <;> cases h
  case h_4 => split at h <;> cases h
  all_goals cases h

/-- Every instruction but RUN_PKT answers a next state, in any state. -/
theorem exec_next {i : Instr} (hi : ∀ n, i ≠ .runPkt n) (s : State) : ∃ t, exec i s = .next t := by
  cases i with
  | runPkt n => exact absurd rfl (hi n)
  | cmdOpen o =>
    show ∃ t, execCmdOpen o s = .next t
    unfold execCmdOpen
    split
    · cases o <;> exact ⟨_, rfl⟩
    · exact ⟨_, rfl⟩
  | cmdLoad =>
    show ∃ t, execCmdLoad s = .next t
    unfold execCmdLoad
    split <;> exact ⟨_, rfl⟩
  | rawPkt | idxRaw8 | tcRaw24 | tcRaw32 | idxRle8 | tcRle24 | tcRle32 | unsupported | hdrCapture | idConsume
  | cmapFill | cmapLookup | unpack8 | unpack24 | unpack32 | cmdReset | cmdReadHeader | cmdReadCmap | cmdReadIdx
  | cmdReadRgb24 | cmdReadArgb32 | cmdReadStatus => exact ⟨_, rfl⟩

/-- An outcome of a step on an attached stream: a next state, or the wait for a stream that has not ended. -/
def NextOrStall (st : Stream) (o : Host.Outcome State Fault Refusal) : Prop :=
  (∃ t, o = .next t) ∨ (o = .fault .streamStall ∧ st.ended = false)

/-- With a stream attached, a read that does not answer waits for a stream that has not ended (R77). -/
theorem streamRead_stalled {st : Stream} {n : Nat} {f : Fault} (hst : s.stream = some st)
    (h : streamRead n s = .stop f) : f = .streamStall ∧ st.ended = false := by
  rcases streamRead_stop h with ⟨hn, -⟩ | ⟨st', hst', -, he, rfl⟩
  · rw [hst] at hn; cases hn
  · rw [hst] at hst'; cases hst'; exact ⟨rfl, he⟩

/-- RUN_PKT in an RLE load can only wait for its payload (R174). -/
theorem execRunPkt_nextOrStall {st : Stream} (hst : s.stream = some st) (hs : s.strategy ≠ .none) (n : BitVec 7) :
    NextOrStall st (execRunPkt n s) := by
  unfold execRunPkt
  split
  · rename_i hpay; exact absurd (payload_eq_none hpay) hs
  · split
    · exact .inl ⟨_, rfl⟩
    · exact .inl ⟨_, rfl⟩
    · rename_i hr
      obtain ⟨rfl, he⟩ := streamRead_stalled (s := openPacket true n s) hst hr
      exact .inr ⟨rfl, he⟩

/-- With a stream attached, an instruction can only wait for it; RUN_PKT needs a strategy. -/
theorem exec_nextOrStall {st : Stream} {i : Instr} (hst : s.stream = some st)
    (hs : ∀ n, i = .runPkt n → s.strategy ≠ .none) : NextOrStall st (exec i s) := by
  by_cases hrun : ∃ n, i = .runPkt n
  · obtain ⟨n, rfl⟩ := hrun
    exact execRunPkt_nextOrStall hst (hs n rfl) n
  · exact .inl (exec_next (fun n hn => hrun ⟨n, hn⟩) s)

/-- A unit read from an attached stream, and run, can only wait for the stream; a packet header needs a strategy. -/
theorem runFetch_fetchStream_nextOrStall {st : Stream} {sl : Slot} {n : Nat} (hst : s.stream = some st)
    (hcmd : sl ≠ .hostcmd8) (hlen : UnitLength.allowed sl n) (hs : sl = .rlehdr8 → s.strategy ≠ .none) :
    NextOrStall st (runFetch (fetchStream sl n s)) := by
  rcases fetchStream_cases sl n s with ⟨p, u, hr, hf⟩ | ⟨u, -, hf⟩ | ⟨f, hr, hf⟩ <;> rw [hf]
  · obtain ⟨i, hd, -⟩ := decode_of_allowed (bs := p) hcmd ((streamRead_length hr).symm ▸ hlen)
    have hu : u.stream = some st ∧ u.strategy = s.strategy := by
      obtain ⟨-, -, -, -, rfl⟩ := streamRead_bytes hr
      exact ⟨hst, rfl⟩
    simp only [runFetch, hd]
    exact exec_nextOrStall hu.1 (by rintro k rfl; rw [hu.2]; exact hs (slot_of_decode_runPkt hcmd hd))
  · exact .inl ⟨_, rfl⟩
  · obtain ⟨rfl, he⟩ := streamRead_stalled hst hr
    exact .inr ⟨rfl, he⟩

/-- A command code is a command, which is not RUN_PKT, or reserved (R118). -/
theorem decodeCmd_cases (code : Byte) (op : Option Stream) :
    (∃ i, decodeCmd code op = .ok i ∧ ∀ n, i ≠ .runPkt n) ∨
      decodeCmd code op = .error (.reservedCommand code) := by
  unfold decodeCmd
  iterate 9
    split
    · exact .inl ⟨_, rfl, fun _ hi => by cases hi⟩
  exact .inr rfl

/-- With no command waiting, and with any command, a reserved one too, there is a next state (R118, R239, R249). -/
theorem runFetch_fetchCommand_next (s : State) : ∃ t, runFetch (fetchCommand s) = .next t := by
  unfold fetchCommand
  split
  · exact ⟨s, rfl⟩
  · rename_i c rest hc
    have hd : decode ⟨.hostcmd8, [c.code], c.stream⟩ = decodeCmd c.code c.stream := rfl
    rcases decodeCmd_cases c.code c.stream with ⟨i, hi, hrun⟩ | he
    · simp only [runFetch, hd, hi]; exact exec_next hrun _
    · simp only [runFetch, hd, he]; exact ⟨_, rfl⟩

/-- A phase that reads the stream is inside a load. -/
theorem loading_of_nextRead {x : Slot × Nat} (h : nextRead s = some x) : s.phase.loading = true := by
  rcases (fetch_of_nextRead h).2 with hp | hp | hp | hp <;> rw [hp] <;> rfl

/-- A stream is attached throughout a load (R197, R241, R266). -/
theorem Inv.stream_of_loading (h : Inv s) (hl : s.phase.loading = true) : ∃ st, s.stream = some st := by
  have hatt : s.phase.attached = true := by cases hp : s.phase <;> simp_all [Phase.loading, Phase.attached]
  exact Option.isSome_iff_exists.mp (h.attached.trans hatt)

end Sys2Proof.Machine

open Sys2Proof.Machine

/-- Settles O58, by what the sequencer fetches: in a state of the invariant a stream is attached and a strategy selected
wherever one is wanted. -/
theorem onlyAStalledStreamStops : Obligations.OnlyAStalledStreamStops := by
  intro s h
  rw [step_eq_runFetch]
  have hf := fetchCase_fetch s
  generalize fetch s = f at hf ⊢
  cases hf with
  | command => exact .inl (runFetch_fetchCommand_next s)
  | read sl n hread =>
    have hl := loading_of_nextRead hread
    obtain ⟨st, hst⟩ := h.stream_of_loading hl
    obtain ⟨hcmd, hlen⟩ := nextRead_allowed hread
    have hs : sl = .rlehdr8 → s.strategy ≠ .none := by
      rintro rfl; exact (h.selected (.inl (phase_of_nextRead_rlehdr8 hread))).1
    exact (runFetch_fetchStream_nextOrStall hst hcmd hlen hs).imp_right fun ⟨ho, he⟩ => ⟨ho, hl, st, hst, he⟩
  | held sl bs hcmd hhdr hlen =>
    obtain ⟨i, hd, -⟩ := decode_of_allowed hcmd hlen
    have hi : ∀ n, i ≠ .runPkt n := by
      rintro n rfl; exact hhdr (slot_of_decode_runPkt hcmd hd)
    simp only [runFetch, hd]
    exact .inl (exec_next hi s)
  | own t => exact .inl ⟨t, rfl⟩
  | unselected hp hs => exact absurd hs (h.selected (.inl hp)).1

end

section
/-! The encoder and the decoder of 30_encoding.md undo each other, format by format (R101 to R108, R112, R118). -/

namespace Sys2Proof.Machine

/-- A packet header byte whose bit 7 is `e` and whose count field is `n` (R104). -/
theorem decodeRleHdr_append (e : Bool) (n : BitVec 7) :
    decodeRleHdr (BitVec.ofBool e ++ n) = if e then .runPkt n else .rawPkt n := by
  have hbit : (BitVec.ofBool e ++ n).getLsbD 7 = e := by rw [BitVec.getLsbD_append]; simp
  have hcount : (BitVec.ofBool e ++ n).extractLsb' 0 7 = n := by
    apply BitVec.eq_of_getLsbD_eq; intro k hk
    rw [BitVec.getLsbD_extractLsb', BitVec.getLsbD_append]
    simp [hk]
  rw [decodeRleHdr, hbit, hcount]

/-- A packet header byte is its bit 7 and its count field (R104). -/
theorem rleHdr_append_parts (b : Byte) : BitVec.ofBool (b.getLsbD 7) ++ b.extractLsb' 0 7 = b := by
  apply BitVec.eq_of_getLsbD_eq; intro k hk
  rw [BitVec.getLsbD_append]
  split
  · simp [*]
  · obtain rfl : k = 7 := by omega
    simp

/-- The packet instruction of a header byte encodes to that byte. -/
theorem encode_decodeRleHdr (b : Byte) : encode (decodeRleHdr b) = plainWord .rlehdr8 [b] := by
  rw [← rleHdr_append_parts b, decodeRleHdr_append]
  cases b.getLsbD 7 <;> rfl

/-- The dispatch key of a type and a depth, by the table's pairs (R108, R112). -/
theorem decodeKey_le16 (depth type : Byte) :
    decodeKey (le16 depth type) =
      if type = 1 ∧ depth = 8 then .idxRaw8
      else if type = 2 ∧ depth = 24 then .tcRaw24
      else if type = 2 ∧ depth = 32 then .tcRaw32
      else if type = 9 ∧ depth = 8 then .idxRle8
      else if type = 9 ∧ depth = 24 then .tcRle24
      else if type = 9 ∧ depth = 32 then .tcRle32
      else .unsupported (le16 depth type) := by
  have hpair (d y : Byte) (k : Half) (hk : k = le16 d y) : le16 depth type = k ↔ type = y ∧ depth = d := by
    rw [hk, le16_inj, and_comm]
  simp only [decodeKey, hpair 8 1 0x0108 rfl, hpair 24 2 0x0218 rfl, hpair 32 2 0x0220 rfl, hpair 8 9 0x0908 rfl,
    hpair 24 9 0x0918 rfl, hpair 32 9 0x0920 rfl]

/-- A key that UNSUPPORTED stands for is decoded as UNSUPPORTED (R112). -/
theorem decodeKey_of_unsupported {k : Half} (h : (Instr.unsupported k).wellFormed = true) :
    decodeKey k = .unsupported k := by
  have hnot : k ∉ supportedKeys := by simpa [Instr.wellFormed] using h
  simp_all [supportedKeys, decodeKey]

/-- The instruction of a dispatch key encodes to the key's bytes, low byte first. -/
theorem encode_decodeKey (k : Half) : encode (decodeKey k) = plainWord .dkey16 [loByte k, hiByte k] := by
  unfold decodeKey
  iterate 6
    split
    · subst k; rfl
  rfl

/-- The eighteen bytes of a header record give its fields back (R101). -/
theorem decodeHeader_encodeHeader (h : Header) : decodeHeader (encodeHeader h) = some h := by
  simp [encodeHeader, decodeHeader]

/-- The bytes a header record was decoded from are its encoding (R101). -/
theorem encodeHeader_of_decodeHeader {bs : List Byte} {h : Header} (hd : decodeHeader bs = some h) :
    encodeHeader h = bs := by
  unfold decodeHeader at hd
  split at hd <;> cases hd
  simp [encodeHeader]

/-- A unit in a slot other than HOSTCMD8 is the encoding of the well-formed instruction it decodes to. -/
theorem reencode_of_decodeBytes {sl : Slot} {bs : List Byte} {i : Instr} (h : decodeBytes sl bs = .ok i) :
    i.wellFormed = true ∧ encode i = plainWord sl bs := by
  unfold decodeBytes at h
  split at h
  case h_1 b =>
    cases h
    exact ⟨by unfold decodeRleHdr; split <;> rfl, encode_decodeRleHdr b⟩
  case h_2 d y =>
    cases h
    exact ⟨decodeKey_wellFormed _, by simpa using encode_decodeKey (le16 d y)⟩
  case h_3 =>
    split at h <;> cases h
    rename_i hd
    exact ⟨rfl, congrArg (plainWord .hdr18) (encodeHeader_of_decodeHeader hd)⟩
  case h_4 =>
    split at h <;> cases h
    rename_i hlen
    exact ⟨decide_eq_true hlen, rfl⟩
  case h_10 => cases h
  all_goals cases h; exact ⟨rfl, rfl⟩

/-- A command code is the code of the command it decodes to (R118). -/
theorem reencode_of_decodeCmd {code : Byte} {op : Option Stream} {i : Instr} (h : decodeCmd code op = .ok i) :
    i.wellFormed = true ∧ (encode i).slot = .hostcmd8 ∧ (encode i).bytes = [code] := by
  unfold decodeCmd at h
  split_ifs at h <;> cases h <;> subst code <;> exact ⟨rfl, rfl, rfl⟩

/-- A code word that decodes is a unit of its slot without an operand, or a command code. -/
theorem decode_ok_cases {w : CodeWord} {i : Instr} (h : decode w = .ok i) :
    (w.stream = none ∧ decodeBytes w.slot w.bytes = .ok i) ∨
      ∃ code, w.slot = .hostcmd8 ∧ w.bytes = [code] ∧ decodeCmd code w.stream = .ok i := by
  unfold decode at h
  split at h
  case h_1 hsl =>
    split at h
    · rename_i code hbs; exact .inr ⟨code, hsl, hbs, h⟩
    · cases h
  case h_2 =>
    split at h
    · rename_i hs; exact .inl ⟨Option.isNone_iff_eq_none.mp hs, h⟩
    · cases h

/-- The codes 0x09 to 0xFF, and no others, are reserved (R118). -/
theorem decodeCmd_reserved_iff (code : Byte) (op : Option Stream) :
    decodeCmd code op = .error (.reservedCommand code) ↔ 9 ≤ code.toNat := by
  constructor
  · intro h
    unfold decodeCmd at h
    split_ifs at h
    bv_omega
  · intro h
    have hne (k : Byte) (hk : k.toNat < 9) : code ≠ k := by rintro rfl; omega
    simp [decodeCmd, hne]

end Sys2Proof.Machine

open Sys2Proof Sys2Proof.Machine

/-- Settles O1: the formats whose decoder computes (R101, R102, R104, R108) by their own round trips, the others by
evaluation. -/
theorem encodedInstructionDecodesBack : Obligations.EncodedInstructionDecodesBack := by
  intro i hwf
  cases i with
  | rawPkt n => exact congrArg Except.ok (decodeRleHdr_append false n)
  | runPkt n => exact congrArg Except.ok (decodeRleHdr_append true n)
  | unsupported k =>
    rw [encode, decode_plain (by decide), decodeBytes, le16_loByte_hiByte, decodeKey_of_unsupported hwf]
  | hdrCapture h =>
    rw [encode, decode_plain (by decide), decodeBytes, decodeHeader_encodeHeader]
  | idConsume bs => exact if_pos (of_decide_eq_true hwf)
  | idxRaw8 | tcRaw24 | tcRaw32 | idxRle8 | tcRle24 | tcRle32 | cmapFill | cmapLookup | unpack8 | unpack24 | unpack32
  | cmdReset | cmdOpen | cmdLoad | cmdReadHeader | cmdReadCmap | cmdReadIdx | cmdReadRgb24 | cmdReadArgb32
  | cmdReadStatus => rfl

/-- Settles O2: a unit of bytes is the whole encoding, a command code all of it but the operand. -/
theorem decodedWordReencodes : Obligations.DecodedWordReencodes := by
  intro w i h
  rcases decode_ok_cases h with ⟨hs, hb⟩ | ⟨code, hsl, hbs, hc⟩
  · obtain ⟨hwf, he⟩ := reencode_of_decodeBytes hb
    rw [he]
    exact ⟨hwf, rfl, rfl, fun _ => hs.symm⟩
  · obtain ⟨hwf, hslot, hbytes⟩ := reencode_of_decodeCmd hc
    exact ⟨hwf, hslot.trans hsl.symm, hbytes.trans hbs.symm, fun hne => absurd hsl hne⟩

/-- Settles O5: equal little-endian pairs have equal bytes, so each key of the table is one pair. -/
theorem dispatchKeyPacksTypeAndDepth : Obligations.DispatchKeyPacksTypeAndDepth :=
  fun type depth => congrArg Except.ok (decodeKey_le16 depth type)

/-- Settles O3, by evaluating the decoder on the seven words. -/
theorem specWordsDecodeAsWritten : Obligations.SpecWordsDecodeAsWritten :=
  ⟨rfl, rfl, rfl, rfl, rfl, rfl, rfl⟩

end

section
/-! Whatever the sequencer fetches is legal, in any state, and what is legal does not fault for its form (30_encoding.md
R112 to R114, R118). -/

namespace Sys2Proof.Machine
open Sys2Proof.Laws
variable {s t : State}

/-- A unit of a well-formed instruction, or a reserved host command (R112, R118). -/
def LegalUnit (w : CodeWord) : Prop :=
  (∃ i, decode w = .ok i ∧ i.wellFormed = true) ∨
    (w.slot = .hostcmd8 ∧ ∃ c : Byte, 9 ≤ c.toNat ∧ decode w = .error (.reservedCommand c))

/-- A fetch of a legal unit, a step of the sequencer's own, or a stop for another reason than a unit's form. -/
def LegalFetch : Fetch → Prop
  | .unit w _ => LegalUnit w
  | .seq _ => True
  | .stop f => f ≠ .malformedUnit

/-- A host command of any code is a legal unit (R118). -/
theorem legalUnit_command (code : Byte) (op : Option Stream) : LegalUnit ⟨.hostcmd8, [code], op⟩ := by
  rcases decodeCmd_cases code op with ⟨i, hi, -⟩ | he
  · exact .inl ⟨i, hi, (reencode_of_decodeCmd hi).1⟩
  · exact .inr ⟨rfl, code, (decodeCmd_reserved_iff code op).mp he, he⟩

/-- Waiting for a command, or taking one, is a legal fetch (R239). -/
theorem legalFetch_fetchCommand (s : State) : LegalFetch (fetchCommand s) := by
  unfold fetchCommand
  split
  · trivial
  · exact legalUnit_command _ _

/-- The stream port does not raise malformedUnit (R77). -/
theorem streamRead_stop_ne_malformedUnit {n : Nat} {f : Fault} (h : streamRead n s = .stop f) :
    f ≠ .malformedUnit := by
  rcases streamRead_stop h with ⟨-, rfl⟩ | ⟨-, -, -, -, rfl⟩ <;> decide

/-- A read of as many bytes as the slot's format allows is a legal fetch (R75, R100). -/
theorem legalFetch_fetchStream {sl : Slot} {n : Nat} (hsl : sl ≠ .hostcmd8) (hlen : UnitLength.allowed sl n)
    (s : State) : LegalFetch (fetchStream sl n s) := by
  rcases fetchStream_cases sl n s with ⟨p, u, hr, hf⟩ | ⟨u, -, hf⟩ | ⟨f, hr, hf⟩ <;> rw [hf]
  · exact .inl (decode_of_allowed hsl ((streamRead_length hr).symm ▸ hlen))
  · trivial
  · exact streamRead_stop_ne_malformedUnit hr

/-- Whatever the sequencer fetches is legal, in any state. -/
theorem legalFetch_fetch (s : State) : LegalFetch (fetch s) := by
  have hcase := fetchCase_fetch s
  generalize fetch s = f at hcase ⊢
  cases hcase with
  | command => exact legalFetch_fetchCommand s
  | read sl n hread =>
    obtain ⟨hsl, hlen⟩ := nextRead_allowed hread
    exact legalFetch_fetchStream hsl hlen s
  | held sl bs hsl _ hlen => exact .inl (decode_of_allowed hsl hlen)
  | own => trivial
  | unselected => exact Fault.noConfusion

/-- RUN_PKT can fault for want of a strategy or on its own read, and not for a unit's form (R174). -/
theorem execRunPkt_ne_malformedUnit (n : BitVec 7) (s : State) : execRunPkt n s ≠ .fault .malformedUnit := by
  unfold execRunPkt
  split
  · nofun
  · split
    · nofun
    · nofun
    · rename_i hr
      exact fun h => streamRead_stop_ne_malformedUnit hr (Host.Outcome.fault.inj h)

/-- No instruction raises malformedUnit: RUN_PKT alone can fault at all. -/
theorem exec_ne_malformedUnit (i : Instr) (s : State) : exec i s ≠ .fault .malformedUnit := by
  by_cases hrun : ∃ n, i = .runPkt n
  · obtain ⟨n, rfl⟩ := hrun
    exact execRunPkt_ne_malformedUnit n s
  · obtain ⟨u, hu⟩ := exec_next (fun n hn => hrun ⟨n, hn⟩) s
    rw [hu]; nofun

/-- A step whose fetched unit the decoder rejects. -/
theorem step_reject {w : CodeWord} {e : DecodeError} (hf : fetch s = .unit w t) (hd : decode w = .error e) :
    step s = reject e t := by simp [step, hf, hd]

/-- No step ends in malformedUnit, in any state. -/
theorem step_ne_malformedUnit (s : State) : step s ≠ .fault .malformedUnit := by
  have hlegal := legalFetch_fetch s
  cases hf : fetch s with
  | seq t => rw [step_seq hf]; nofun
  | stop f =>
    rw [hf] at hlegal
    rw [step_stop hf]
    exact fun h => hlegal (Host.Outcome.fault.inj h)
  | unit w t =>
    rw [hf] at hlegal
    rcases hlegal with ⟨i, hd, -⟩ | ⟨-, c, -, hd⟩
    · rw [step_unit hf hd]; exact exec_ne_malformedUnit i t
    · rw [step_reject hf hd]; nofun

end Sys2Proof.Machine

open Sys2Proof Sys2Proof.Machine

/-- Settles O6: the nine codes by evaluation; a reserved code is fetched, rejected by the decoder and refused. -/
theorem commandCodesAndReservedCodes : Obligations.CommandCodesAndReservedCodes := by
  refine ⟨fun op => ⟨rfl, rfl, rfl, rfl, rfl, rfl, rfl, rfl, rfl⟩, fun s c rest hp hc hcode => ?_⟩
  have hd : decode ⟨.hostcmd8, [c.code], c.stream⟩ = .error (.reservedCommand c.code) :=
    (decodeCmd_reserved_iff c.code c.stream).mpr hcode
  exact step_reject (fetch_command hp hc) hd

/-- Settles O9: `LegalFetch` holds of every fetch, and a legal unit is run or, if a reserved command, refused. -/
theorem fetchedUnitsAreLegal : Obligations.FetchedUnitsAreLegal := by
  refine fun s => ⟨step_ne_malformedUnit s, fun w t hf => ?_⟩
  have hlegal := legalFetch_fetch s
  rwa [hf] at hlegal

end

section
/-! Header capture and image ID (40_header_capture.md R131 to R135): the record read from the stream, the exact sizes,
the ID bytes, and the header and size registers after any other step. -/

namespace Sys2Proof.Machine
variable {s t : State}

/-- A unit read from the attached stream is decoded and run with IN_POS after it (R39, R75). -/
theorem step_of_nextRead {sl : Slot} {n : Nat} {st : Stream} {i : Instr} (hread : nextRead s = some (sl, n))
    (hst : s.stream = some st) (hl : s.inPos.toNat + n ≤ st.bytes.length)
    (hd : decodeBytes sl ((st.bytes.drop s.inPos.toNat).take n) = .ok i) :
    step s = exec i { s with inPos := s.inPos + BitVec.ofNat 64 n } :=
  step_unit ((fetch_of_nextRead hread).1.trans (fetchStream_of_stream sl hst hl))
    ((decode_plain (nextRead_allowed hread).1 _).trans hd)

/-- A unit past the end of a stream that ends takes the failure path, with the stream consumed (R76, D11). -/
theorem step_of_short {sl : Slot} {n : Nat} {st : Stream} (hread : nextRead s = some (sl, n))
    (hst : s.stream = some st) (hl : st.bytes.length < s.inPos.toNat + n) (he : st.ended = true) :
    step s = .next (raiseShort { s with inPos := BitVec.ofNat 64 st.bytes.length }) := by
  refine step_seq ((fetch_of_nextRead hread).1.trans ?_)
  rw [fetchStream, streamRead_of_ended hst he hl]

/-- The `n` bytes of a list from position `p` on, one by one. -/
theorem take_drop_eq_map_getD {bs : List Byte} {p n : Nat} (h : p + n ≤ bs.length) :
    (bs.drop p).take n = (List.range n).map fun k => bs.getD (p + k) 0 := by
  apply List.ext_getElem
  · simp; omega
  · intro k hk hk'
    have hlt : p + k < bs.length := by simp at hk; omega
    simp [hlt]

/-- The header record whose byte at offset `k` is `b k` (R101). -/
def headerOfBytes (b : Nat → Byte) : Header :=
  { idLength := b 0, colorMapType := b 1, imageType := b 2, cMapStart := le16 (b 3) (b 4),
    cMapLength := le16 (b 5) (b 6), cMapDepth := b 7, xOffset := le16 (b 8) (b 9), yOffset := le16 (b 10) (b 11),
    width := le16 (b 12) (b 13), height := le16 (b 14) (b 15), pixelDepth := b 16, imageDesc := b 17 }

/-- Eighteen bytes decode to the record that has them at its offsets. -/
theorem decodeHeader_map_range (b : Nat → Byte) :
    decodeHeader ((List.range 18).map b) = some (headerOfBytes b) := rfl

/-- PIXEL_COUNT is width * height: the product of two 16-bit values fits in 32 bits (R133). -/
theorem sizesOf_pixelCount_toNat (h : Header) :
    (sizesOf h).pixelCount.toNat = h.width.toNat * h.height.toNat := by
  have hlt : h.width.toNat * h.height.toNat < 2 ^ 16 * 2 ^ 16 := Nat.mul_lt_mul'' h.width.isLt h.height.isLt
  have hw := h.width.isLt
  have hh := h.height.isLt
  simp only [sizesOf, BitVec.toNat_mul, BitVec.toNat_setWidth]
  rw [Nat.mod_eq_of_lt (a := h.width.toNat) (by omega), Nat.mod_eq_of_lt (a := h.height.toNat) (by omega),
    Nat.mod_eq_of_lt (by omega)]

/-- SIZE24 and SIZE32 are 3 and 4 times PIXEL_COUNT: four times a 32-bit value fits in 34 bits (R133). -/
theorem sizesOf_toNat_eq_mul (h : Header) :
    (sizesOf h).size24.toNat = (sizesOf h).pixelCount.toNat * 3 ∧
      (sizesOf h).size32.toNat = (sizesOf h).pixelCount.toNat * 4 := by
  have hn := (sizesOf h).pixelCount.isLt
  constructor
  · show ((sizesOf h).pixelCount.setWidth 34 * 3#34).toNat = _
    rw [BitVec.toNat_mul, BitVec.toNat_setWidth, BitVec.toNat_ofNat]; omega
  · show ((sizesOf h).pixelCount.setWidth 34 * 4#34).toNat = _
    rw [BitVec.toNat_mul, BitVec.toNat_setWidth, BitVec.toNat_ofNat]; omega

/-- Choosing a strategy leaves the header and size registers, whether the image fits or not. -/
theorem selectStrategy_header (st : Strategy) (s : State) :
    (selectStrategy st s).hdr = s.hdr ∧ (selectStrategy st s).sizes = s.sizes := by
  rcases selectStrategy_cases st s with ⟨-, h⟩ | h <;> rw [h] <;> exact ⟨rfl, rfl⟩

/-- A step writes the header and size registers at a RESET or in LOAD_HDR, and no other does (R134). -/
theorem StepCase.header_cases (hc : StepCase s t) :
    resetPending s ∨ s.phase = .loadHdr ∨ (t.hdr = s.hdr ∧ t.sizes = s.sizes) := by
  cases hc with
  | reset c rest hp hc hcode => exact .inl ⟨hp, c, rest, hc, hcode⟩
  | header st hd hp => exact .inr (.inl hp)
  | select st => exact .inr (.inr (selectStrategy_header st s))
  | color u _ _ _ _ _ _ _ _ _ _ hu | lookupFails u _ _ _ _ hu | lookup u _ _ _ _ _ _ _ _ hu =>
    obtain ⟨q, rfl⟩ := hu.eq_inPos
    exact .inr (.inr ⟨rfl, rfl⟩)
  | idle | openFails | opens | load | answer | refused | short | imageId | cmapTooLarge | cmapEntry | cmapDone
  | unsupported | rawPacket | runPacket | runShort | finish => exact .inr (.inr ⟨rfl, rfl⟩)

end Sys2Proof.Machine

open Sys2Proof Sys2Proof.Machine

/-- Settles O13: LOAD_HDR reads eighteen bytes, which decode to the record that has them at its offsets, or are
SHORT. -/
theorem headerCaptureStep : Obligations.HeaderCaptureStep := by
  intro s st hp hst b h
  have hread : nextRead s = some (.hdr18, 18) := by rw [nextRead, hp]
  refine ⟨fun hl => ?_, fun hl he => ⟨_, step_of_short hread hst hl he, rfl, ?_, rfl, rfl⟩⟩
  · have hd : decodeHeader ((st.bytes.drop s.inPos.toNat).take 18) = some h := by
      rw [take_drop_eq_map_getD hl]; exact decodeHeader_map_range b
    exact step_of_nextRead hread hst hl (i := .hdrCapture h) (by rw [decodeBytes, hd])
  · simp [hp, shortError]

/-- Settles O14, by the equations of the size registers. -/
theorem hdrCaptureWritesExactSizes : Obligations.HdrCaptureWritesExactSizes := by
  intro h s
  have hn := sizesOf_pixelCount_toNat h
  obtain ⟨h24, h32⟩ := sizesOf_toNat_eq_mul h
  exact ⟨_, rfl, rfl, hn, hn, by rw [← hn]; exact h24, by rw [← hn]; exact h32, rfl⟩

/-- Settles O15: LOAD_ID reads HDR_ID_LENGTH bytes, at most 255, and any so many are an ID field. -/
theorem idConsumeStoresBytes : Obligations.IdConsumeStoresBytes := by
  refine ⟨fun bytes s => rfl, fun s st hp hst hl => ?_⟩
  have hread : nextRead s = some (.idField, s.hdr.idLength.toNat) := by rw [nextRead, hp]
  have hlen : ((st.bytes.drop s.inPos.toNat).take s.hdr.idLength.toNat).length = s.hdr.idLength.toNat := by
    rw [List.length_take, List.length_drop]; omega
  have hid : s.hdr.idLength.toNat ≤ 255 := Nat.le_of_lt_succ s.hdr.idLength.isLt
  refine ⟨_, step_of_nextRead hread hst hl (if_pos (hlen.trans_le hid)), hlen, fun i hi => ?_, rfl⟩
  rw [List.getElem?_take_of_lt hi, List.getElem?_drop]

/-- Settles O43, by the cases of a step. -/
theorem headerKeptUntilReset : Obligations.HeaderKeptUntilReset :=
  fun _ _ hstep hp => (stepCase_of_step hstep).header_cases.imp_right (·.resolve_left hp)

end

section
/-! After the header is captured, a load does not read the fields that the block does not interpret
(40_header_capture.md R132, R134): each part of a step commutes with writing other values to them. -/

namespace Sys2Proof.Machine

/-- Values for the fields that the block does not interpret after HDR_CAPTURE (R115, R132, R154, R179). -/
structure FreeFields where
  cMapStart : Half
  cMapDepth : Byte
  xOffset   : Half
  yOffset   : Half
  width     : Half
  height    : Half
  imageDesc : Byte

/-- A state with these values in the header registers. -/
def FreeFields.put (v : FreeFields) (s : State) : State :=
  { s with hdr := { s.hdr with
      cMapStart := v.cMapStart, cMapDepth := v.cMapDepth, xOffset := v.xOffset, yOffset := v.yOffset,
      width := v.width, height := v.height, imageDesc := v.imageDesc } }

/-- An outcome with its next state changed by `f`. -/
def mapNext (f : State → State) : Host.Outcome State Fault Refusal → Host.Outcome State Fault Refusal
  | .next t => .next (f t)
  | .fault r => .fault r
  | .refused r => .refused r

/-- An answer of the stream port with its state changed by `f`. -/
def ReadResult.map (f : State → State) : ReadResult → ReadResult
  | .bytes p t => .bytes p (f t)
  | .short t => .short (f t)
  | .stop r => .stop r

/-- Two fetches alike but for the free fields, neither of a header record nor of a host command. -/
inductive SameFetch (v : FreeFields) : Fetch → Fetch → Prop where
  | unit (w : CodeWord) (t : State) (hhdr : w.slot ≠ .hdr18) (hcmd : w.slot ≠ .hostcmd8) :
      SameFetch v (.unit w (v.put t)) (.unit w t)
  | seq (t : State) : SameFetch v (.seq (v.put t)) (.seq t)
  | stop (r : Fault) : SameFetch v (.stop r) (.stop r)

variable {s : State} (v : FreeFields)

/-- A stream read neither reads nor writes the header. -/
theorem streamRead_put (n : Nat) (s : State) : streamRead n (v.put s) = (streamRead n s).map v.put := by
  unfold streamRead
  rw [show (v.put s).stream = s.stream from rfl]
  cases s.stream with
  | none => rfl
  | some st =>
    simp only [apply_ite (ReadResult.map v.put)]
    rfl

/-- A pixel's index is looked up and emitted without the header. -/
theorem emitIndexed_put (idx : Byte) (s : State) : emitIndexed idx (v.put s) = v.put (emitIndexed idx s) := by
  unfold emitIndexed
  rw [apply_ite v.put]; rfl

/-- The capacity check is of PIXEL_COUNT, and not of the width and height registers (R192). -/
theorem selectStrategy_put (st : Strategy) (s : State) :
    selectStrategy st (v.put s) = v.put (selectStrategy st s) := by
  simp only [selectStrategy, apply_ite v.put]; rfl

/-- RUN_PKT does not read the header. -/
theorem execRunPkt_put (n : BitVec 7) (s : State) : execRunPkt n (v.put s) = mapNext v.put (execRunPkt n s) := by
  unfold execRunPkt
  rw [show (v.put s).strategy = s.strategy from rfl]
  cases s.strategy.payload with
  | none => rfl
  | some x =>
    have hr : streamRead x.2 (openPacket true n (v.put s)) = (streamRead x.2 (openPacket true n s)).map v.put :=
      streamRead_put v x.2 (openPacket true n s)
    simp only [hr]
    cases streamRead x.2 (openPacket true n s) <;> rfl

/-- An instruction of a load other than HDR_CAPTURE neither reads nor writes the free fields. -/
theorem exec_put {i : Instr} (hhdr : (encode i).slot ≠ .hdr18) (hcmd : (encode i).slot ≠ .hostcmd8) (s : State) :
    exec i (v.put s) = mapNext v.put (exec i s) := by
  cases i with
  | cmapLookup idx | unpack8 idx =>
    exact congrArg Host.Outcome.next (emitIndexed_put v idx s)
  | idxRaw8 | tcRaw24 | tcRaw32 | idxRle8 | tcRle24 | tcRle32 =>
    exact congrArg Host.Outcome.next (selectStrategy_put v _ s)
  | runPkt n => exact execRunPkt_put v n s
  | rawPkt | unsupported | idConsume | cmapFill | unpack24 | unpack32 => rfl
  | hdrCapture => exact absurd rfl hhdr
  | cmdReset | cmdOpen | cmdLoad | cmdReadHeader | cmdReadCmap | cmdReadIdx | cmdReadRgb24 | cmdReadArgb32
  | cmdReadStatus => exact absurd rfl hcmd

/-- A choice by a condition that the free fields do not decide. -/
theorem SameFetch.ite {v : FreeFields} {c : Prop} [Decidable c] {a a' b b' : Fetch} (ha : SameFetch v a a')
    (hb : SameFetch v b b') : SameFetch v (if c then a else b) (if c then a' else b') := by
  split
  · exact ha
  · exact hb

/-- A unit other than a header record or a command is read from the stream whatever the free fields. -/
theorem sameFetch_fetchStream {sl : Slot} (hhdr : sl ≠ .hdr18) (hcmd : sl ≠ .hostcmd8) (n : Nat) (s : State) :
    SameFetch v (fetchStream sl n (v.put s)) (fetchStream sl n s) := by
  unfold fetchStream
  rw [streamRead_put]
  cases streamRead n s with
  | bytes p t => exact .unit _ t hhdr hcmd
  | short t => exact .seq (raiseShort t)
  | stop r => exact .stop r

/-- CMAP_PHASE reads colorMapType, cMapLength and idLength of the header, and cMapStart and cMapDepth never (R154). -/
theorem sameFetch_fetchCmap (s : State) : SameFetch v (fetchCmap (v.put s)) (fetchCmap s) :=
  .ite (.seq (raise .cmapSize s)) <|
    .ite (sameFetch_fetchStream v (by decide) (by decide) _ s)
      (.seq { s with cmapCount := (cmapEntries s.hdr).setWidth 9, phase := .loadDispatch })

/-- A payload's source is the strategy's and the packet registers' (R175, R179, R196). -/
theorem sameFetch_fetchPayload {sl : Slot} (hhdr : sl ≠ .hdr18) (hcmd : sl ≠ .hostcmd8) (p : Nat) (s : State) :
    SameFetch v (fetchPayload sl p (v.put s)) (fetchPayload sl p s) :=
  have hread := sameFetch_fetchStream v hhdr hcmd p s
  have hpacket := sameFetch_fetchStream v (sl := .rlehdr8) (by decide) (by decide) 1 s
  .ite (.ite hpacket (.ite (.unit _ s hhdr hcmd) hread)) hread

/-- PIXEL_LOOP counts to PIXEL_COUNT, a register of its own beside width and height (R134, R194). -/
theorem sameFetch_fetchPixel (s : State) : SameFetch v (fetchPixel (v.put s)) (fetchPixel s) := by
  unfold fetchPixel
  rw [show (v.put s).strategy = s.strategy from rfl]
  cases hpay : s.strategy.payload with
  | none => exact .stop _
  | some x =>
    have hsl : x.1 ≠ .hdr18 ∧ x.1 ≠ .hostcmd8 := by
      rcases payload_cases hpay with ⟨h, -⟩ | ⟨h, -⟩ | ⟨h, -⟩ <;> rw [h] <;> decide
    exact .ite (sameFetch_fetchPayload v hsl.1 hsl.2 x.2 s) (.seq (finish s))

/-- In a load, after LOAD_HDR, what is fetched does not depend on the free fields. -/
theorem sameFetch_fetch (hload : s.phase.loading = true) (hp : s.phase ≠ .loadHdr) :
    SameFetch v (fetch (v.put s)) (fetch s) := by
  unfold fetch
  rw [show (v.put s).phase = s.phase from rfl]
  cases hphase : s.phase with
  | unopened | opened | decoded | closed => rw [hphase] at hload; cases hload
  | loadHdr => exact absurd hphase hp
  | loadId => exact sameFetch_fetchStream v (by decide) (by decide) _ s
  | loadCmap => exact sameFetch_fetchCmap v s
  | loadDispatch => exact .unit _ s nofun nofun
  | loadPixel => exact sameFetch_fetchPixel v s

/-- What follows a fetch that does not depend on the free fields does not depend on them. -/
theorem SameFetch.runFetch {v : FreeFields} {f f' : Fetch} (h : SameFetch v f f') :
    runFetch f = mapNext v.put (runFetch f') := by
  cases h with
  | seq | stop => rfl
  | unit w t hhdr hcmd =>
    simp only [Machine.runFetch]
    cases hd : decode w with
    | ok i =>
      obtain ⟨-, hslot, -⟩ := decodedWordReencodes w i hd
      exact exec_put v (hslot ▸ hhdr) (hslot ▸ hcmd) t
    | error e => cases e <;> rfl

end Sys2Proof.Machine

open Sys2Proof Sys2Proof.Machine

/-- Settles O52: what is fetched and what is run commute with writing the free fields. -/
theorem uninterpretedFieldsChangeNothing : Obligations.UninterpretedFieldsChangeNothing := by
  intro s start x y w h depth desc hload hp f
  have hstep : step (f s) = mapNext f (step s) :=
    (sameFetch_fetch ⟨start, depth, x, y, w, h, desc⟩ hload hp).runFetch
  rw [hstep]
  cases step s <;> rfl

end

section
/-! The colormap (41_colormap.md R150 to R158): the steps of CMAP_PHASE, the entry CMAP_FILL writes, the pixel a
lookup produces, and the colormap after any other step. -/

namespace Sys2Proof.Machine
variable {s t : State}

/-- Without a colormap no entry is declared (R150, C1). -/
theorem cmapEntries_of_absent {h : Header} (hc : h.colorMapType = 0) : cmapEntries h = 0 := if_pos hc

/-- A colormap that is present declares cMapLength entries (R150). -/
theorem cmapEntries_of_present {h : Header} (hc : h.colorMapType ≠ 0) : cmapEntries h = h.cMapLength := if_neg hc

/-- More than 256 entries declared: the failure path, before any entry is read (R150). -/
theorem step_cmapTooLarge (hp : s.phase = .loadCmap) (hn : 256 < (cmapEntries s.hdr).toNat) :
    step s = .next (raise .cmapSize s) :=
  step_seq (by simp [fetch, hp, fetchCmap, Config.cmapEntriesMax, hn])

/-- Past the last entry declared: the count is written (R151). -/
theorem step_cmapDone (hp : s.phase = .loadCmap) (hn : (cmapEntries s.hdr).toNat ≤ 256)
    (hk : (cmapEntries s.hdr).toNat ≤ cmapEntryAt s.inPos s.hdr) :
    step s = .next { s with cmapCount := (cmapEntries s.hdr).setWidth 9, phase := .loadDispatch } :=
  step_seq (by simp [fetch, hp, fetchCmap, Config.cmapEntriesMax, Nat.not_lt.mpr hn, Nat.not_lt.mpr hk])

/-- CMAP_FILL of the entry whose bytes were read from `pos` on writes the entry at `pos` (R117, R152). -/
theorem exec_cmapFill_after_read (b g r : Byte) (s : State) (pos : BitVec 64) :
    exec (.cmapFill b g r) { s with inPos := pos + 3 } = .next { s with
      inPos := pos + 3, cmap := Memory.write s.cmap (cmapEntryAt pos s.hdr) (packEntry b g r) } := by
  simp only [exec, execCmapFill, BitVec.add_sub_cancel]
  rfl

/-- At an entry declared, its three bytes are read and fill it (R150, R152). -/
theorem step_cmapEntry {st : Stream} (hp : s.phase = .loadCmap) (hn : (cmapEntries s.hdr).toNat ≤ 256)
    (hk : cmapEntryAt s.inPos s.hdr < (cmapEntries s.hdr).toNat) (hst : s.stream = some st)
    (hl : s.inPos.toNat + 3 ≤ st.bytes.length) :
    step s = .next { s with
      inPos := s.inPos + 3
      cmap := Memory.write s.cmap (cmapEntryAt s.inPos s.hdr) (packEntry (st.bytes.getD s.inPos.toNat 0)
        (st.bytes.getD (s.inPos.toNat + 1) 0) (st.bytes.getD (s.inPos.toNat + 2) 0)) } := by
  have hread : nextRead s = some (.cmape24, 3) := by simp only [nextRead, hp, if_pos (And.intro hn hk)]
  refine (step_of_nextRead hread hst hl ?_).trans (exec_cmapFill_after_read _ _ _ s s.inPos)
  rw [take_drop_eq_map_getD hl]
  rfl

/-- The entry whose three bytes end at 18 + HDR_ID_LENGTH + 3*(k + 1) is entry k (R117). -/
theorem cmapEntryAt_of_end {pos : BitVec 64} {h : Header} {k : Nat}
    (hp : pos.toNat = 18 + h.idLength.toNat + 3 * (k + 1)) : cmapEntryAt (pos - 3) h = k := by
  have hthree : (3 : BitVec 64).toNat = 3 := rfl
  have hle : (3 : BitVec 64) ≤ pos := BitVec.le_def.mpr (by omega)
  exact cmapEntryAt_of_pos (by rw [BitVec.toNat_sub_of_le hle]; omega)

/-- A step writes the colormap and CMAP_COUNT at a RESET or in LOAD_CMAP, and no other does (R158). -/
theorem StepCase.cmap_cases (hc : StepCase s t) :
    resetPending s ∨ s.phase = .loadCmap ∨ (t.cmap = s.cmap ∧ t.cmapCount = s.cmapCount) := by
  cases hc with
  | reset c rest hp hc hcode => exact .inl ⟨hp, c, rest, hc, hcode⟩
  | cmapEntry _ _ hp | cmapDone hp => exact .inr (.inl hp)
  | select st =>
    rcases selectStrategy_cases st s with ⟨-, heq⟩ | heq <;> rw [heq] <;> exact .inr (.inr ⟨rfl, rfl⟩)
  | color u _ _ _ _ _ _ _ _ _ _ hu | lookupFails u _ _ _ _ hu | lookup u _ _ _ _ _ _ _ _ hu =>
    obtain ⟨q, rfl⟩ := hu.eq_inPos
    exact .inr (.inr ⟨rfl, rfl⟩)
  | idle | openFails | opens | load | answer | refused | short | header | imageId | cmapTooLarge | unsupported
  | rawPacket | runPacket | runShort | finish => exact .inr (.inr ⟨rfl, rfl⟩)

end Sys2Proof.Machine

open Sys2Proof Sys2Proof.Machine

/-- Settles O16: each clause is one branch of CMAP_PHASE, and IN_POS at an entry's offset says which entry it is. -/
theorem colormapPhaseChecksAndCounts : Obligations.ColormapPhaseChecksAndCounts := by
  intro s hp
  refine ⟨fun hc => ?absent, fun hc hn => ?tooLarge, fun hc hn hpos => ?done, fun k st hc hn hk hpos hst hl => ?entry⟩
  case absent =>
    have hzero : cmapEntries s.hdr = 0 := cmapEntries_of_absent hc
    rw [step_cmapDone hp (by simp [hzero]) (by simp [hzero]), hzero]
    rfl
  case tooLarge =>
    rw [step_cmapTooLarge hp (by rwa [cmapEntries_of_present hc]), ← hp]
    rfl
  case done =>
    rw [← cmapEntries_of_present hc] at hn hpos ⊢
    refine ⟨_, step_cmapDone hp hn (cmapEntryAt_of_pos hpos).ge, ?_, rfl⟩
    rw [BitVec.toNat_setWidth]
    omega
  case entry =>
    have hentry : cmapEntryAt s.inPos s.hdr = k := cmapEntryAt_of_pos hpos
    rw [← cmapEntries_of_present hc] at hn hk
    have hstep := step_cmapEntry hp hn (hentry.trans_lt hk) hst hl
    rw [hentry] at hstep
    exact ⟨_, entryBlue_packEntry _ _ _, entryGreen_packEntry _ _ _, entryRed_packEntry _ _ _, hstep⟩

/-- Settles O17: the entry written reads back its channels, every other address as before. -/
theorem cmapFillWritesOneEntry : Obligations.CmapFillWritesOneEntry := by
  intro b g r s
  refine ⟨cmapEntryAt (s.inPos - 3) s.hdr, _, rfl, rfl, fun j => cmapEntryAt_of_end,
    ⟨packEntry b g r, ?_, entryBlue_packEntry b g r, entryGreen_packEntry b g r, entryRed_packEntry b g r⟩,
    fun j hj => ?_, rfl⟩
  · rw [cmapWrite_cmap, Memory.read_write, if_pos rfl]
  · rw [cmapWrite_cmap, Memory.read_write, if_neg hj]

/-- Settles O18: CMAP_LOOKUP and UNPACK8 are one operation, and CMAP_COUNT splits it into a failure and a pixel. -/
theorem cmapLookupEmitsPixel : Obligations.CmapLookupEmitsPixel := by
  intro idx s i hi
  have hexec : exec i s = .next (emitIndexed idx s) := by
    rcases List.mem_pair.mp hi with rfl | rfl <;> rfl
  rw [hexec]
  refine ⟨fun hout => ?_, fun hin => ?_⟩
  · rw [emitIndexed_outOfRange idx s hout]
    rfl
  · rw [emitIndexed_inRange idx s hin]
    exact ⟨_, rfl, emitIndex_read_idx idx s, emitColor_read_rgb _ _ _ _ (emitIndex idx s),
      emitColor_read_argb _ _ _ _ (emitIndex idx s), rfl⟩

/-- Settles O45, by the cases of a step, and by the invariant: what CMAP_COUNT counts is filled. -/
theorem colormapFilledBeforeLookup : Obligations.ColormapFilledBeforeLookup := by
  refine ⟨fun s t hstep hp => (stepCase_of_step hstep).cmap_cases.imp_right (·.resolve_left hp),
    fun s idx h hp hk => ?_⟩
  obtain ⟨e, he⟩ := Option.isSome_iff_exists.mp (h.read_isSome_of_lt_count (by simp [hp]) hk)
  exact ⟨e, he, by rw [cmapRead, he, Option.getD_some]⟩

end

section
/-! Packet headers (42_rle_packet.md R171 to R174, 30_encoding.md R109, R113): the fields of a header byte, what the two
packet instructions write, and PKT_FETCH as a step. -/

namespace Sys2Proof.Machine
variable {s : State}

/-- A position in a stream shorter than 2^64 does not wrap (R38). -/
theorem toNat_add_ofNat {a : BitVec 64} {n : Nat} (h : a.toNat + n < 2 ^ 64) :
    (a + BitVec.ofNat 64 n).toNat = a.toNat + n := by
  rw [BitVec.toNat_add, BitVec.toNat_ofNat]; omega

/-- Masking bit 7 of a header byte tests the encoded flag (R113). -/
theorem and_flag_ne_zero_iff (b : Byte) : b &&& 0x80 ≠ 0 ↔ b.getLsbD 7 = true := by
  rw [show (0x80 : Byte) = BitVec.twoPow 8 7 from rfl, BitVec.and_twoPow]
  cases b.getLsbD 7 <;> decide

/-- Masking bits 6..0 of a header byte gives the count field, which does not fill the byte (R109). -/
theorem and_count_toNat (b : Byte) : (b &&& 0x7F).toNat = (b.extractLsb' 0 7).toNat := by
  rw [BitVec.toNat_and, BitVec.extractLsb'_toNat, Nat.shiftRight_zero]
  exact Nat.and_two_pow_sub_one_eq_mod b.toNat 7

/-- The run length of a header byte is its bits 6..0 plus 1, with no carry out of the byte (R109, R171). -/
theorem runLength_count (b : Byte) : runLength (b.extractLsb' 0 7) = (b &&& 0x7F) + 1 := by
  have hcount : (b.extractLsb' 0 7).setWidth 8 = b &&& 0x7F := by
    apply BitVec.eq_of_toNat_eq
    rw [BitVec.toNat_setWidth_of_le (by decide), and_count_toNat]
  rw [runLength, hcount]

/-- A header byte with bit 7 clear is RAW_PKT (R171). -/
theorem decodeRleHdr_raw {b : Byte} (h : b &&& 0x80 = 0) : decodeRleHdr b = .rawPkt (b.extractLsb' 0 7) :=
  if_neg fun hbit => (and_flag_ne_zero_iff b).mpr hbit h

/-- A header byte with bit 7 set is RUN_PKT (R171). -/
theorem decodeRleHdr_run {b : Byte} (h : b &&& 0x80 ≠ 0) : decodeRleHdr b = .runPkt (b.extractLsb' 0 7) :=
  if_pos ((and_flag_ne_zero_iff b).mp h)

/-- RUN_PKT with its payload in the stream latches the payload (R172, R174). -/
theorem exec_runPkt_latches {sl : Slot} {p : Nat} {st : Stream} (hpay : s.strategy.payload = some (sl, p))
    (hst : s.stream = some st) (hl : s.inPos.toNat + p ≤ st.bytes.length) (n : BitVec 7) :
    exec (.runPkt n) s = .next { s with
      inPos := s.inPos + BitVec.ofNat 64 p
      pkt := ⟨true, runLength n, runLength n, lePack ((st.bytes.drop s.inPos.toNat).take p)⟩ } := by
  have hr := streamRead_of_le (s := openPacket true n s) hst hl
  simp only [exec, execRunPkt, hpay, hr]
  rfl

/-- RUN_PKT with its payload cut off by the end of the stream fails with the header registers written (R172, R174). -/
theorem exec_runPkt_short {sl : Slot} {p : Nat} {st : Stream} (hpay : s.strategy.payload = some (sl, p))
    (hst : s.stream = some st) (he : st.ended = true) (hl : st.bytes.length < s.inPos.toNat + p) (n : BitVec 7) :
    exec (.runPkt n) s =
      .next (raiseShort { openPacket true n s with inPos := BitVec.ofNat 64 st.bytes.length }) := by
  have hr := streamRead_of_ended (s := openPacket true n s) hst he hl
  simp only [exec, execRunPkt, hpay, hr]

/-- With no packet open, the header byte at IN_POS is run with IN_POS after it (R172, R175). -/
theorem step_packetHeader {sl : Slot} {p : Nat} {st : Stream} (hp : s.phase = .loadPixel)
    (hrle : s.strategy.isRle = true) (hpay : s.strategy.payload = some (sl, p))
    (hi : s.pix.toNat < s.sizes.pixelCount.toNat) (hrem : s.pkt.remain = 0) (hst : s.stream = some st)
    (hl : s.inPos.toNat + 1 ≤ st.bytes.length) :
    step s = exec (decodeRleHdr (st.bytes.getD s.inPos.toNat 0)) { s with inPos := s.inPos + 1 } := by
  have hread : nextRead s = some (.rlehdr8, 1) := by
    rw [nextRead_pixel hp hpay hi, if_pos ⟨hrle, hrem⟩]
  refine step_of_nextRead hread hst hl ?_
  rw [take_drop_eq_map_getD hl]
  rfl

end Sys2Proof.Machine

open Sys2Proof Sys2Proof.Machine

/-- Settles O4: the count field of every byte, with the flag by `decodeRleHdr_run` and `decodeRleHdr_raw`. -/
theorem packetHeaderFields : Obligations.PacketHeaderFields := by
  refine fun b => ⟨b.extractLsb' 0 7, congrArg Except.ok ?_, by rw [runLength_toNat, and_count_toNat]⟩
  split
  · rename_i h; exact decodeRleHdr_run h
  · rename_i h; exact decodeRleHdr_raw (not_not.mp h)

/-- Settles O22, by `openPacket` and the value of a run length. -/
theorem rawPacketOpens : Obligations.RawPacketOpens :=
  fun n _ => ⟨_, rfl, runLength_toNat n, rfl⟩

/-- Settles O23, by `exec_runPkt_latches` and the value of a run length. -/
theorem runPacketLatchesPayload : Obligations.RunPacketLatchesPayload :=
  fun n _ _ _ _ hpay hst hl => ⟨_, exec_runPkt_latches hpay hst hl n, runLength_toNat n, rfl⟩

/-- Settles O24: the header byte is run by the flag, and a RUN packet's payload starts one byte after it. -/
theorem packetFetchStep : Obligations.PacketFetchStep := by
  intro s sl p st hp hrle hpay hi hrem hst hL hl b len
  have hlen : runLength (b.extractLsb' 0 7) = len := runLength_count b
  have hpos : (s.inPos + 1).toNat = s.inPos.toNat + 1 := toNat_add_ofNat (n := 1) (by omega)
  rw [step_packetHeader hp hrle hpay hi hrem hst hl]
  refine ⟨fun hraw => ?raw, fun hrun hfit => ?run, fun hrun hshort he => ?short⟩
  case raw => rw [decodeRleHdr_raw hraw, ← hlen]; rfl
  case run =>
    rw [decodeRleHdr_run hrun, exec_runPkt_latches (s := { s with inPos := s.inPos + 1 }) hpay hst (by rwa [hpos]),
      hpos, hlen]
  case short =>
    rw [decodeRleHdr_run hrun, exec_runPkt_short (s := { s with inPos := s.inPos + 1 }) hpay hst he (by rwa [hpos]),
      raiseShort, raise, openPacket, hlen]
    simp only [hp]
    rfl

end

section
/-! The pixels of a packet or of a raw strategy (42_rle_packet.md R173 to R177, 43_pixel_dispatch.md R194 to R196,
44_unpack_engines.md R219 to R221): one iteration of PIXEL_LOOP from its payload value, and a run of k of them. -/

namespace Sys2Proof.Machine
variable {s t u : State}

/-- The bytes of a payload value, one by one (R110). -/
theorem leBytes_eq_map (p : Nat) (v : BitVec 32) :
    leBytes p v = (List.range p).map fun i => v.extractLsb' (8 * i) 8 := by
  apply List.ext_getElem?'
  intro i hi
  have hi : i < p := by simpa [leBytes_length] using hi
  rw [leBytes_getElem? p v i hi]
  simp [hi]

/-- A RAW packet's or a raw strategy's pixel takes its payload from the stream (R175, R196). -/
theorem nextRead_literal {sl : Slot} {p : Nat} (hp : s.phase = .loadPixel)
    (hpay : s.strategy.payload = some (sl, p)) (hi : s.pix.toNat < s.sizes.pixelCount.toNat)
    (hraw : s.strategy.isRle = true → s.pkt.remain ≠ 0 ∧ s.pkt.enc = false) : nextRead s = some (sl, p) := by
  have hrun : ¬ (s.strategy.isRle = true ∧ s.pkt.enc = true) := fun ⟨hrle, henc⟩ =>
    Bool.false_ne_true ((hraw hrle).2.symm.trans henc)
  rw [nextRead_pixel hp hpay hi, if_neg fun ⟨hrle, hrem⟩ => (hraw hrle).1 hrem, if_neg hrun]

/-- One iteration of PIXEL_LOOP whose payload value is `v`: the index, where there is one, the colours, and the
tail of the loop (R194, R195). -/
def producePixel (v : BitVec 32) (s : State) : State :=
  completePixel (emitColor (emitted s v).1 (emitted s v).2.1 (emitted s v).2.2.1 (emitted s v).2.2.2
    (if s.strategy.isIndexed then emitIndex (v.extractLsb' 0 8) s else s))

/-- A payload value's index, where the strategy has one, is below CMAP_COUNT (R155). -/
def IndexInRange (s : State) (v : BitVec 32) : Prop :=
  s.strategy.isIndexed = true → (v.extractLsb' 0 8).toNat < s.cmapCount.toNat

/-- In an indexed strategy EMIT writes the channels of the colormap entry, and the synthesized alpha (R219, R222). -/
theorem emitted_indexed (hs : s.strategy.isIndexed = true) (v : BitVec 32) :
    emitted s v = (Config.synthAlpha, entryRed (cmapRead (v.extractLsb' 0 8).toNat s),
      entryGreen (cmapRead (v.extractLsb' 0 8).toNat s), entryBlue (cmapRead (v.extractLsb' 0 8).toNat s)) := by
  cases h : s.strategy <;> rw [h] at hs
  case idxRaw8 | idxRle8 => simp only [emitted, h]; rfl
  all_goals cases hs

/-- UNPACK8 of an index in range is the iteration of an indexed strategy (R155, R219). -/
theorem exec_unpack8_producePixel {v : BitVec 32} (hs : s.strategy.isIndexed = true) (hx : IndexInRange s v) :
    exec (.unpack8 (v.extractLsb' 0 8)) s = .next (producePixel v s) := by
  simp only [exec, execUnpack8, emitIndexed_inRange _ s (hx hs), producePixel, emitted_indexed hs, if_pos hs]

/-- The bytes of a payload value decode to the instruction that produces its pixel (R195). -/
theorem exec_producePixel {sl : Slot} {p : Nat} {v : BitVec 32} (hpay : s.strategy.payload = some (sl, p))
    (hx : IndexInRange s v) :
    ∃ i, decodeBytes sl (leBytes p v) = .ok i ∧ exec i s = .next (producePixel v s) := by
  rw [leBytes_eq_map]
  cases hs : s.strategy <;> rw [hs] at hpay <;> cases hpay
  case idxRaw8 | idxRle8 => exact ⟨_, rfl, exec_unpack8_producePixel (by rw [hs]; rfl) hx⟩
  case tcRaw24 | tcRle24 => exact ⟨_, rfl, by simp only [exec, execUnpack24, producePixel, emitted, hs]; rfl⟩
  case tcRaw32 | tcRle32 => exact ⟨_, rfl, by simp only [exec, execUnpack32, producePixel, emitted, hs]; rfl⟩

/-- Inside a RUN packet the next pixel is produced from the latched payload, and IN_POS stays (R174, R175). -/
theorem step_latched {sl : Slot} {p : Nat} (hp : s.phase = .loadPixel) (hpay : s.strategy.payload = some (sl, p))
    (hi : s.pix.toNat < s.sizes.pixelCount.toNat) (hrle : s.strategy.isRle = true) (hrem : s.pkt.remain ≠ 0)
    (henc : s.pkt.enc = true) (hx : IndexInRange s s.pkt.payload) :
    step s = .next (producePixel s.pkt.payload s) := by
  obtain ⟨i, hd, he⟩ := exec_producePixel hpay hx
  exact (step_unit (fetch_latched hp hpay hi hrle hrem henc) ((decode_plain (payload_allowed hpay).1 _).trans hd)).trans
    he

/-- A literal pixel is produced from the payload at IN_POS, and IN_POS moves past it (R173, R196). -/
theorem step_literal {sl : Slot} {p : Nat} {st : Stream} (hp : s.phase = .loadPixel)
    (hpay : s.strategy.payload = some (sl, p)) (hi : s.pix.toNat < s.sizes.pixelCount.toNat)
    (hraw : s.strategy.isRle = true → s.pkt.remain ≠ 0 ∧ s.pkt.enc = false) (hst : s.stream = some st)
    (hl : s.inPos.toNat + p ≤ st.bytes.length)
    (hx : IndexInRange s (lePack ((st.bytes.drop s.inPos.toNat).take p))) :
    step s = .next (producePixel (lePack ((st.bytes.drop s.inPos.toNat).take p))
      { s with inPos := s.inPos + BitVec.ofNat 64 p }) := by
  have hlen : ((st.bytes.drop s.inPos.toNat).take p).length = p := by
    rw [List.length_take, List.length_drop]; omega
  have hbytes : leBytes p (lePack ((st.bytes.drop s.inPos.toNat).take p)) = (st.bytes.drop s.inPos.toNat).take p := by
    have h := leBytes_lePack (hlen.trans_le (payload_length_le hpay))
    rwa [hlen] at h
  obtain ⟨i, hd, he⟩ := exec_producePixel (s := { s with inPos := s.inPos + BitVec.ofNat 64 p }) hpay hx
  exact (step_of_nextRead (nextRead_literal hp hpay hi hraw) hst hl (hbytes ▸ hd)).trans he

/-- `s` with the registers moved that PIXEL_LOOP moves from pixel to pixel: the buffers, PIX, IN_POS and PKT_REMAIN. -/
def State.inLoop (s : State) (o : Buffers) (x : BitVec 32) (q : BitVec 64) (r : BitVec 8) : State :=
  { s with out := o, pix := x, inPos := q, pkt := { s.pkt with remain := r } }

/-- An iteration moves the buffers, PIX and PKT_REMAIN only. -/
theorem producePixel_frame (v : BitVec 32) (s : State) :
    producePixel v s = s.inLoop (producePixel v s).out (producePixel v s).pix s.inPos
      (producePixel v s).pkt.remain := by
  unfold producePixel
  cases hrle : s.strategy.isRle <;> split <;> simp [State.inLoop, completePixel, hrle]

theorem producePixel_read_rgb (v : BitVec 32) (s : State) (x : Nat) :
    Memory.read (producePixel v s).out.rgb x =
      if x = 3 * s.pix.toNat then some (emitted s v).2.1
      else if x = 3 * s.pix.toNat + 1 then some (emitted s v).2.2.1
      else if x = 3 * s.pix.toNat + 2 then some (emitted s v).2.2.2
      else Memory.read s.out.rgb x := by
  unfold producePixel; split <;> exact emitColor_read_rgb _ _ _ _ _ x

theorem producePixel_read_argb (v : BitVec 32) (s : State) (x : Nat) :
    Memory.read (producePixel v s).out.argb x =
      if x = 4 * s.pix.toNat then some (emitted s v).1
      else if x = 4 * s.pix.toNat + 1 then some (emitted s v).2.1
      else if x = 4 * s.pix.toNat + 2 then some (emitted s v).2.2.1
      else if x = 4 * s.pix.toNat + 3 then some (emitted s v).2.2.2
      else Memory.read s.out.argb x := by
  unfold producePixel; split <;> exact emitColor_read_argb _ _ _ _ _ x

theorem producePixel_idx_of_indexed (hs : s.strategy.isIndexed = true) (v : BitVec 32) :
    (producePixel v s).out.idx = (emitIndex (v.extractLsb' 0 8) s).out.idx := by rw [producePixel, if_pos hs]; rfl

theorem producePixel_idx_of_trueColor (hs : s.strategy.isIndexed = false) (v : BitVec 32) :
    (producePixel v s).out.idx = s.out.idx := by rw [producePixel, hs]; rfl

theorem producePixel_pix (v : BitVec 32) (s : State) : (producePixel v s).pix = s.pix + 1 := by
  unfold producePixel; split <;> rfl

theorem producePixel_pkt (v : BitVec 32) (s : State) : (producePixel v s).pkt =
    if s.strategy.isRle then { s.pkt with remain := s.pkt.remain - 1 } else s.pkt := by
  unfold producePixel; split <;> rfl

/-- PIX goes up by one where the image has a pixel left (R194). -/
theorem producePixel_pix_toNat (hi : s.pix.toNat < s.sizes.pixelCount.toNat) (v : BitVec 32) :
    (producePixel v s).pix.toNat = s.pix.toNat + 1 := by
  have hlt := s.sizes.pixelCount.isLt
  rw [producePixel_pix, BitVec.toNat_add, show (1 : BitVec 32).toNat = 1 from rfl]; omega

/-- PKT_REMAIN goes down by one in an RLE strategy, where the packet has a pixel left, and only there (R176). -/
theorem producePixel_remain_toNat (hrem : s.strategy.isRle = true → s.pkt.remain ≠ 0) (v : BitVec 32) :
    (producePixel v s).pkt.remain.toNat =
      if s.strategy.isRle then s.pkt.remain.toNat - 1 else s.pkt.remain.toNat := by
  rw [producePixel_pkt]
  split
  · rename_i hs
    have hne := hrem hs
    simp only
    bv_omega
  · rfl

/-- The bytes of the pixel that an iteration produces. -/
theorem pixelIs_producePixel {i : Nat} (hi : s.pix.toNat = i) (v : BitVec 32) :
    pixelIs s (producePixel v s) i v := by
  subst hi
  refine ⟨fun hs => ?_, ?_⟩
  · rw [producePixel_idx_of_indexed hs, emitIndex_read_idx, if_pos rfl]
  · simp [producePixel_read_rgb, producePixel_read_argb]

/-- An iteration leaves the bytes of every other pixel (R81). -/
theorem otherPixelsKept_producePixel {i : Nat} (hi : s.pix.toNat = i) (v : BitVec 32) :
    otherPixelsKept i 1 s.out (producePixel v s).out := by
  subst hi
  refine ⟨fun a ha => ?_, fun a ha => ?_, fun a ha => ?_⟩
  · rw [producePixel_read_rgb, if_neg (by omega), if_neg (by omega), if_neg (by omega)]
  · rw [producePixel_read_argb, if_neg (by omega), if_neg (by omega), if_neg (by omega), if_neg (by omega)]
  · cases hs : s.strategy.isIndexed with
    | true => rw [producePixel_idx_of_indexed hs, emitIndex_read_idx, if_neg (by omega)]
    | false => rw [producePixel_idx_of_trueColor hs]

/-- Leaving the pixels outside two adjacent ranges leaves those outside both. -/
theorem otherPixelsKept.trans {first k l : Nat} {o o' o'' : Buffers} (h : otherPixelsKept first k o o')
    (h' : otherPixelsKept (first + k) l o' o'') : otherPixelsKept first (k + l) o o'' := by
  obtain ⟨hrgb, hargb, hidx⟩ := h
  obtain ⟨hrgb', hargb', hidx'⟩ := h'
  exact ⟨fun a ha => (hrgb' a (by omega)).trans (hrgb a (by omega)),
    fun a ha => (hargb' a (by omega)).trans (hargb a (by omega)),
    fun a ha => (hidx' a (by omega)).trans (hidx a (by omega))⟩

/-- A pixel before the ones written stays as it is. -/
theorem pixelIs.kept {i first k : Nat} {v : BitVec 32} (h : pixelIs s t i v)
    (hk : otherPixelsKept first k t.out u.out) (hi : i < first) : pixelIs s u i v := by
  obtain ⟨hrgb, hargb, hidx⟩ := hk
  simpa (disch := omega) only [pixelIs, hrgb, hargb, hidx] using h

/-- From `s`, `k` pixels were produced from the payload values `v 0`, `v 1`, ..., and IN_POS is `q` (R176, R194). -/
structure Produced (s : State) (k : Nat) (v : Nat → BitVec 32) (q : BitVec 64) (t : State) : Prop where
  pix : t.pix.toNat = s.pix.toNat + k
  remain : t.pkt.remain.toNat = if s.strategy.isRle then s.pkt.remain.toNat - k else s.pkt.remain.toNat
  pixels : ∀ j, j < k → pixelIs s t (s.pix.toNat + j) (v j)
  others : otherPixelsKept s.pix.toNat k s.out t.out
  trueColor : s.strategy.isIndexed = false → t.out.idx = s.out.idx
  frame : t = s.inLoop t.out t.pix q t.pkt.remain

variable {k : Nat} {v : Nat → BitVec 32} {q : BitVec 64}

theorem Produced.exists_eq (h : Produced s k v q t) : ∃ o x r, t = s.inLoop o x q r := ⟨_, _, _, h.frame⟩

theorem Produced.inPos_eq (h : Produced s k v q t) : t.inPos = q := by rw [h.frame]; rfl

theorem Produced.zero (s : State) (v : Nat → BitVec 32) : Produced s 0 v s.inPos s where
  pix := rfl
  remain := by simp
  pixels := fun _ hj => absurd hj (Nat.not_lt_zero _)
  others := ⟨fun _ _ => rfl, fun _ _ => rfl, fun _ _ => rfl⟩
  trueColor := fun _ => rfl
  frame := rfl

/-- A packet that has more than `k` pixels left is still open after `k`. -/
theorem Produced.remain_ne (h : Produced s k v q t) (hrle : s.strategy.isRle = true) (hk : k < s.pkt.remain.toNat) :
    t.pkt.remain ≠ 0 := by
  have hr := h.remain
  rw [if_pos hrle] at hr
  bv_omega

/-- An image that has more than `k` pixels left has one left after `k`. -/
theorem Produced.pix_lt (h : Produced s k v q t) (hi : s.pix.toNat + k < s.sizes.pixelCount.toNat) :
    t.pix.toNat < s.sizes.pixelCount.toNat := h.pix.trans_lt hi

/-- One iteration more, where the image and the packet have a pixel left. -/
theorem Produced.succ (h : Produced s k v q t) (hi : s.pix.toNat + k < s.sizes.pixelCount.toNat)
    (hrem : s.strategy.isRle = true → k < s.pkt.remain.toNat) (q' : BitVec 64) :
    Produced s (k + 1) v q' (producePixel (v k) { t with inPos := q' }) := by
  obtain ⟨o, x, r, rfl⟩ := h.exists_eq
  have hothers : otherPixelsKept (s.pix.toNat + k) 1 o (producePixel (v k) (s.inLoop o x q' r)).out :=
    otherPixelsKept_producePixel (s := s.inLoop o x q' r) h.pix (v k)
  refine
    { pix := (producePixel_pix_toNat (s := s.inLoop o x q' r) (h.pix_lt hi) (v k)).trans ?pix
      remain := ?remain
      pixels := fun j hj => ?pixels
      others := h.others.trans hothers
      trueColor := fun hs => (producePixel_idx_of_trueColor (s := s.inLoop o x q' r) hs (v k)).trans (h.trueColor hs)
      frame := producePixel_frame (v k) (s.inLoop o x q' r) }
  case pix => exact congrArg (· + 1) h.pix
  case remain =>
    refine (producePixel_remain_toNat (s := s.inLoop o x q' r) (fun hs => h.remain_ne hs (hrem hs)) (v k)).trans ?_
    have hr : r.toNat = if s.strategy.isRle then s.pkt.remain.toNat - k else s.pkt.remain.toNat := h.remain
    show (if s.strategy.isRle then r.toNat - 1 else r.toNat) = _
    rw [hr]
    split <;> omega
  case pixels =>
    rcases Nat.lt_succ_iff_lt_or_eq.mp hj with hj | rfl
    · exact (h.pixels j hj).kept hothers (by omega)
    · exact pixelIs_producePixel (s := s.inLoop o x q' r) h.pix (v j)

/-- Steps that are iterations, payload after payload, produce as many pixels as the image and the packet have. -/
theorem run_produces {q : Nat → BitVec 64} (hi : s.pix.toNat + k ≤ s.sizes.pixelCount.toNat)
    (hrem : s.strategy.isRle = true → k ≤ s.pkt.remain.toNat) (hq : q 0 = s.inPos)
    (hstep : ∀ j t, j < k → Produced s j v (q j) t →
      step t = .next (producePixel (v j) { t with inPos := q (j + 1) })) :
    ∃ t : State, Host.Core.run Sys2Proof.core k s = .next t ∧ Produced s k v (q k) t := by
  induction k with
  | zero => exact ⟨s, rfl, hq ▸ Produced.zero s v⟩
  | succ k ih =>
    obtain ⟨t, hrun, ht⟩ := ih (by omega) (fun hs => Nat.le_of_lt (hrem hs)) fun j t hj => hstep j t (by omega)
    exact ⟨_, (run_add (M := Sys2Proof.core) k 1 hrun).trans (run_one (hstep k t (Nat.lt_succ_self k) ht)),
      ht.succ hi hrem _⟩

/-- At the end of the image the load is finished (R194, R197). -/
theorem step_finish (hp : s.phase = .loadPixel) (hs : s.strategy ≠ .none)
    (hi : s.sizes.pixelCount.toNat ≤ s.pix.toNat) : step s = .next (finish s) := by
  obtain ⟨x, hpay⟩ := Option.ne_none_iff_exists'.mp (mt payload_eq_none hs)
  exact step_seq (by simp only [fetch, hp, fetchPixel, hpay, if_neg (Nat.not_lt.mpr hi)])

/-- A packet not used up at the end of the loop is noted as an overrun (R177). -/
theorem finish_overrun (hrem : 0 < s.pkt.remain.toNat) : (finish s).flags.pktOverrun = true := by
  simp [hrem]

/-- An index is a payload of one byte (R37, R105). -/
theorem payload_length_of_indexed {st : Strategy} {sl : Slot} {p : Nat} (h : st.payload = some (sl, p))
    (hs : st.isIndexed = true) : p = 1 := by
  rcases payload_cases h with ⟨-, hp⟩ | ⟨hsl, -⟩ | ⟨hsl, -⟩
  · exact hp
  all_goals rw [(isIndexed_iff_px8 h).mp hs] at hsl; cases hsl

/-- The lowest byte of the payload at position `n` is the stream's byte there. -/
theorem lePack_take_drop_byte_zero {p : Nat} (hp : 0 < p) (bs : List Byte) (n : Nat) :
    (lePack ((bs.drop n).take p)).extractLsb' 0 8 = bs.getD n 0 := by
  rw [show 0 = 8 * 0 from rfl, lePack_byte _ (by decide)]
  simp [hp]

/-- An iteration inside a RUN packet, whatever was produced before it (R174, R175). -/
theorem Produced.step_latched {sl : Slot} {p : Nat} (h : Produced s k v q t) (hp : s.phase = .loadPixel)
    (hpay : s.strategy.payload = some (sl, p)) (hi : s.pix.toNat + k < s.sizes.pixelCount.toNat)
    (hrle : s.strategy.isRle = true) (hk : k < s.pkt.remain.toNat) (henc : s.pkt.enc = true)
    (hx : IndexInRange s s.pkt.payload) : step t = .next (producePixel s.pkt.payload { t with inPos := q }) := by
  have hpix := h.pix_lt hi
  have hrem := h.remain_ne hrle hk
  obtain ⟨o, x, r, rfl⟩ := h.exists_eq
  exact Machine.step_latched (s := s.inLoop o x q r) hp hpay hpix hrle hrem henc hx

/-- A literal pixel's iteration, whatever was produced before it (R173, R196). -/
theorem Produced.step_literal {sl : Slot} {p : Nat} {st : Stream} (h : Produced s k v q t) (hp : s.phase = .loadPixel)
    (hpay : s.strategy.payload = some (sl, p)) (hi : s.pix.toNat + k < s.sizes.pixelCount.toNat)
    (hraw : s.strategy.isRle = true → s.pkt.enc = false ∧ k < s.pkt.remain.toNat) (hst : s.stream = some st)
    (hl : q.toNat + p ≤ st.bytes.length) (hx : IndexInRange s (lePack ((st.bytes.drop q.toNat).take p))) :
    step t = .next (producePixel (lePack ((st.bytes.drop q.toNat).take p))
      { t with inPos := q + BitVec.ofNat 64 p }) := by
  have hpix := h.pix_lt hi
  have hrem (hs : s.strategy.isRle = true) := h.remain_ne hs (hraw hs).2
  obtain ⟨o, x, r, rfl⟩ := h.exists_eq
  exact Machine.step_literal (s := s.inLoop o x q r) hp hpay hpix (fun hs => ⟨hrem hs, (hraw hs).1⟩) hst hl hx

/-- After the last pixel of the image the load is finished. -/
theorem Produced.step_finish (h : Produced s k v q t) (hp : s.phase = .loadPixel) (hs : s.strategy ≠ .none)
    (hi : s.sizes.pixelCount.toNat ≤ s.pix.toNat + k) : step t = .next (finish t) := by
  have hpix := h.pix
  obtain ⟨o, x, r, rfl⟩ := h.exists_eq
  exact Machine.step_finish (s := s.inLoop o x q r) hp hs (hi.trans hpix.ge)

end Sys2Proof.Machine

open Sys2Proof Sys2Proof.Machine

/-- Settles O25: the literal sources by `nextRead`, the latched one by `fetch_latched`. -/
theorem payloadSource : Obligations.PayloadSource := by
  intro s sl p hp hpay hi
  refine ⟨fun hrle hrem => ?header, fun hrle hrem henc => ?latched, fun hrle hrem henc => ?literal, fun hraw => ?raw⟩
  case header =>
    exact (fetch_of_nextRead (by rw [nextRead_pixel hp hpay hi, if_pos ⟨hrle, hrem⟩])).1
  case latched =>
    exact ⟨_, fetch_latched hp hpay hi hrle hrem henc, leBytes_length _ _, leBytes_getElem? _ _⟩
  case literal => exact (fetch_of_nextRead (nextRead_literal hp hpay hi fun _ => ⟨hrem, henc⟩)).1
  case raw => exact (fetch_of_nextRead (nextRead_literal hp hpay hi fun hrle => by simp [hraw] at hrle)).1

/-- Settles O26: every step is an iteration with the latched payload, and after the last pixel an overrun is noted. -/
theorem runPacketRepeatsItsPayload : Obligations.RunPacketRepeatsItsPayload := by
  intro s k hp hrle henc hk hi hx
  have hs : s.strategy ≠ .none := fun h => by simp [h, Strategy.isRle] at hrle
  obtain ⟨⟨sl, p⟩, hpay⟩ := Option.ne_none_iff_exists'.mp (mt payload_eq_none hs)
  obtain ⟨t, hrun, ht⟩ := run_produces (v := fun _ => s.pkt.payload) (q := fun _ => s.inPos) hi (fun _ => hk) rfl
    fun j t hj ht => ht.step_latched hp hpay (by omega) hrle (hj.trans_le hk) henc hx
  have hremain : t.pkt.remain.toNat = s.pkt.remain.toNat - k := ht.remain.trans (if_pos hrle)
  refine ⟨t, hrun, ht.pix, hremain, ht.pixels, ht.others, ht.trueColor, ht.frame, fun hend hover => ?_⟩
  exact ⟨finish t, ht.step_finish hp hs hend.ge, rfl, finish_overrun (by omega), hremain, ht.inPos_eq, rfl⟩

/-- Settles O27: every step is an iteration with the payload at IN_POS, and IN_POS moves by one payload. -/
theorem literalPixelsFollowTheStream : Obligations.LiteralPixelsFollowTheStream := by
  intro s k sl p st hp hpay hraw hi hst hL hl hx
  have hmul {j : Nat} (hj : j ≤ k) : j * p ≤ k * p := Nat.mul_le_mul_right p hj
  have hq {j : Nat} (hj : j ≤ k) : (s.inPos + BitVec.ofNat 64 (j * p)).toNat = s.inPos.toNat + j * p :=
    toNat_add_ofNat (by have := hmul hj; omega)
  obtain ⟨t, hrun, ht⟩ := run_produces (v := fun j => lePack ((st.bytes.drop (s.inPos.toNat + j * p)).take p))
    (q := fun j => s.inPos + BitVec.ofNat 64 (j * p)) hi (fun hs => (hraw hs).2) (by simp) fun j t hj ht => by
      have hnext := hmul hj
      rw [Nat.succ_mul] at hnext
      have hstep := ht.step_literal hp hpay (by omega) (fun hs => ⟨(hraw hs).1, hj.trans_le (hraw hs).2⟩) hst
      rw [hq hj.le] at hstep
      rw [Nat.succ_mul, BitVec.ofNat_add, ← BitVec.add_assoc]
      refine hstep (by omega) fun hs => ?_
      obtain rfl : p = 1 := payload_length_of_indexed hpay hs
      rw [lePack_take_drop_byte_zero Nat.one_pos, Nat.mul_one]
      exact hx hs j hj
  refine ⟨t, hrun, ht.pix, ?_, ht.pixels, ht.others, ht.trueColor, ht.remain, ?_⟩
  · rw [ht.inPos_eq, hq le_rfl]
  · rw [ht.inPos_eq]; exact ht.frame

end

section
/-! The dispatch of a load (43_pixel_dispatch.md R190 to R193), the end of its pixel loop (R197, R199), and STRATEGY
after any other step (R201). -/

namespace Sys2Proof.Machine
variable {s t : State}

/-- The strategy table: imageType, pixelDepth, STRATEGY and IDX_PRESENT of the six supported pairs (R190, R191). -/
def strategyTable : List (Byte × Byte × Strategy × Bool) :=
  [(1, 8, .idxRaw8, true), (2, 24, .tcRaw24, false), (2, 32, .tcRaw32, false), (9, 8, .idxRle8, true),
    (9, 24, .tcRle24, false), (9, 32, .tcRle32, false)]

/-- The pairs of imageType and pixelDepth that the table supports (R191). -/
def supportedPairs : List (Byte × Byte) := [(1, 8), (2, 24), (2, 32), (9, 8), (9, 24), (9, 32)]

/-- A supported pair is that of a row of the table. -/
theorem exists_row_of_mem_supportedPairs {type depth : Byte} (h : (type, depth) ∈ supportedPairs) :
    ∃ row ∈ strategyTable, type = row.1 ∧ depth = row.2.1 := by
  have hmap : supportedPairs = strategyTable.map fun row => (row.1, row.2.1) := rfl
  obtain ⟨row, hrow, heq⟩ := List.mem_map.mp (hmap ▸ h)
  exact ⟨row, hrow, (congrArg Prod.fst heq).symm, (congrArg Prod.snd heq).symm⟩

/-- Each row names a strategy, with the IDX_PRESENT that goes with it. -/
theorem strategy_of_mem_strategyTable :
    ∀ row ∈ strategyTable, row.2.2.1 ≠ .none ∧ row.2.2.2 = row.2.2.1.isIndexed := by decide

/-- The key of a row selects the row's strategy (R108, R190). -/
theorem exec_decodeKey_of_mem_strategyTable {row : Byte × Byte × Strategy × Bool} (hrow : row ∈ strategyTable)
    (s : State) : exec (decodeKey (le16 row.2.1 row.1)) s = .next (selectStrategy row.2.2.1 s) := by
  simp only [strategyTable, List.mem_cons, List.not_mem_nil, or_false] at hrow
  rcases hrow with rfl | rfl | rfl | rfl | rfl | rfl <;> rfl

/-- A pair that the table does not support has the key of an UNSUPPORTED (R112, R193). -/
theorem decodeKey_of_not_mem_supportedPairs {type depth : Byte} (h : (type, depth) ∉ supportedPairs) :
    decodeKey (le16 depth type) = .unsupported (le16 depth type) := by
  simp only [supportedPairs, List.mem_cons, List.not_mem_nil, or_false, not_or, Prod.mk.injEq] at h
  obtain ⟨h1, h2, h3, h4, h5, h6⟩ := h
  rw [decodeKey_le16, if_neg h1, if_neg h2, if_neg h3, if_neg h4, if_neg h5, if_neg h6]

/-- DISPATCH runs the instruction of the header's key (R39, R108). -/
theorem step_dispatch (hp : s.phase = .loadDispatch) :
    step s = exec (decodeKey (le16 s.hdr.pixelDepth s.hdr.imageType)) s := by
  have hf : fetch s = .unit (plainWord .dkey16 (keyBytes s.hdr)) s := by simp only [fetch, hp]
  exact step_unit hf (decode_plain (by decide) _)

/-- DISPATCH of a pair of the table selects the row's strategy (R190). -/
theorem step_dispatch_of_mem_strategyTable (hp : s.phase = .loadDispatch) {row : Byte × Byte × Strategy × Bool}
    (hrow : row ∈ strategyTable) (htype : s.hdr.imageType = row.1) (hdepth : s.hdr.pixelDepth = row.2.1) :
    step s = .next (selectStrategy row.2.2.1 s) := by
  rw [step_dispatch hp, htype, hdepth, exec_decodeKey_of_mem_strategyTable hrow]

/-- PKT_OVERRUN after the loop: set where the packet has a pixel left, else as it was (R177). -/
theorem finish_pktOverrun (s : State) :
    (finish s).flags.pktOverrun = if s.pkt.remain = 0 then s.flags.pktOverrun else true := by
  split
  · rename_i hrem; simp [hrem]
  · exact finish_overrun (by bv_omega)

/-- In DECODED, where the sizes are 0, the pixel accessors return the empty sequence (R199, R247). -/
theorem exec_readPixels_of_sizes_zero (hp : s.phase = .decoded) (hv : s.flags.resultValid = true)
    (hz : s.sizes = ⟨0, 0, 0, 0⟩) :
    ∀ i ∈ [Instr.cmdReadIdx, .cmdReadRgb24, .cmdReadArgb32], exec i s = .next (reply .ok (.bytes []) s) := by
  have hidx : (if s.flags.idxPresent then outBytes .idx s.sizes.size8.toNat s else []) = [] := by
    rw [hz]; exact ite_self _
  have hrgb : outBytes .rgb s.sizes.size24.toNat s = [] := by rw [hz]; rfl
  have hargb : outBytes .argb s.sizes.size32.toNat s = [] := by rw [hz]; rfl
  simp [exec, execCmdReadIdx, execCmdReadRgb24, execCmdReadArgb32, accessor_decoded _ s hp hv, hidx, hrgb, hargb]

/-- A step writes STRATEGY at a RESET or in LOAD_DISPATCH, and no other does (R201). -/
theorem StepCase.strategy_cases (hc : StepCase s t) :
    resetPending s ∨ s.phase = .loadDispatch ∨ t.strategy = s.strategy := by
  cases hc with
  | reset c rest hp hc hcode => exact .inl ⟨hp, c, rest, hc, hcode⟩
  | select _ hp | unsupported hp => exact .inr (.inl hp)
  | color u _ _ _ _ _ _ _ _ _ _ hu | lookupFails u _ _ _ _ hu | lookup u _ _ _ _ _ _ _ _ hu =>
    obtain ⟨q, rfl⟩ := hu.eq_inPos
    exact .inr (.inr rfl)
  | idle | openFails | opens | load | answer | refused | short | header | imageId | cmapTooLarge | cmapEntry
  | cmapDone | rawPacket | runPacket | runShort | finish => exact .inr (.inr rfl)

end Sys2Proof.Machine

open Sys2Proof.Machine

/-- Settles O28: a pair of the table selects its row's strategy, which the capacity splits; any other is UNSUPPORTED. -/
theorem dispatchSelectsStrategy : Obligations.DispatchSelectsStrategy := by
  intro s hp
  refine ⟨fun row hrow htype hdepth => ?supported, fun hnot => ?unsupported⟩
  case supported =>
    rw [step_dispatch_of_mem_strategyTable hp hrow htype hdepth, (strategy_of_mem_strategyTable row hrow).2]
    refine ⟨fun hfits => congrArg _ (selectStrategy_fits _ s hfits), fun hlarge => ?_⟩
    rw [selectStrategy_tooLarge _ s hlarge, ← hp]
    rfl
  case unsupported =>
    rw [step_dispatch hp, decodeKey_of_not_mem_supportedPairs hnot, ← hp]
    rfl

/-- Settles O29: each of the six instructions selects its strategy, and the capacity splits the outcome. -/
theorem strategyInstructionsEnterPixelLoop : Obligations.StrategyInstructionsEnterPixelLoop := by
  intro s row hrow
  have hselect : exec row.1 s = .next (selectStrategy row.2.1 s) ∧ row.2.2 = row.2.1.isIndexed := by
    simp only [List.mem_cons, List.not_mem_nil, or_false] at hrow
    rcases hrow with rfl | rfl | rfl | rfl | rfl | rfl <;> exact ⟨rfl, rfl⟩
  obtain ⟨hexec, hidx⟩ := hselect
  rw [hexec, hidx]
  exact ⟨fun hfits => congrArg _ (selectStrategy_fits _ s hfits),
    fun hlarge => ⟨_, congrArg _ (selectStrategy_tooLarge _ s hlarge), rfl, rfl, rfl, rfl⟩⟩

/-- Settles O30: UNSUPPORTED is the failure path and nothing else. -/
theorem unsupportedKeyFails : Obligations.UnsupportedKeyFails := fun _ _ => rfl

/-- Settles O31: the step is FINISH, which notes the overrun. -/
theorem loopEndEntersDecoded : Obligations.LoopEndEntersDecoded := by
  intro s hp hs hpix
  rw [step_finish hp hs (by rw [hpix]), ← finish_pktOverrun]
  rfl

/-- Settles O32: an image of no pixels fits, so the strategy is selected, and the next step is FINISH. -/
theorem zeroSizedImageDecodes : Obligations.ZeroSizedImageDecodes := by
  intro s hp hz hpair
  obtain ⟨row, hrow, htype, hdepth⟩ := exists_row_of_mem_supportedPairs hpair
  have hdispatch := step_dispatch_of_mem_strategyTable hp hrow htype hdepth
  rw [selectStrategy_fits _ s (by simp [hz])] at hdispatch
  have hfinish := step_finish (s := { setIdxPresent row.2.2.1 { s with strategy := row.2.2.1 } with
    pix := 0, pkt := zeroPacket, phase := .loadPixel }) rfl (strategy_of_mem_strategyTable row hrow).1 (by simp [hz])
  refine ⟨_, (run_add (M := Sys2Proof.core) 1 1 (run_one hdispatch)).trans (run_one hfinish), rfl, rfl, rfl, rfl, ?_⟩
  exact exec_readPixels_of_sizes_zero rfl rfl hz

/-- Settles O44, by the cases of a step, and by the invariant. -/
theorem strategyChangesOnlyInDispatch : Obligations.StrategyChangesOnlyInDispatch :=
  ⟨fun _ _ hstep hp => (stepCase_of_step hstep).strategy_cases.imp_right (·.resolve_left hp),
    fun _ h hp => (h.selected (.inl hp)).1⟩

end

section
/-! A load on a stream that ends comes to its end (43_pixel_dispatch.md R202): each of its steps answers, and ends the
load or makes the measure smaller. -/

namespace Sys2Proof.Machine
variable {s t : State} {st : Stream}

/-- A load in progress on the stream `st`: a strategy is selected wherever one is wanted (R201). -/
structure LoadingFrom (st : Stream) (s : State) : Prop where
  loading : s.phase.loading = true
  stream : s.stream = some st
  selected : s.phase = .loadPixel → s.strategy ≠ .none

/-- A step inside a load can only wait for the stream (R77). -/
theorem LoadingFrom.step_nextOrStall (h : LoadingFrom st s) : NextOrStall st (step s) := by
  rw [step_eq_runFetch]
  have hf := fetchCase_fetch s
  generalize fetch s = f at hf ⊢
  cases hf with
  | command => exact .inl (runFetch_fetchCommand_next s)
  | read sl n hread =>
    obtain ⟨hcmd, hlen⟩ := nextRead_allowed hread
    exact runFetch_fetchStream_nextOrStall h.stream hcmd hlen fun hsl =>
      h.selected (phase_of_nextRead_rlehdr8 (hsl ▸ hread))
  | held sl bs hcmd hhdr hlen =>
    obtain ⟨i, hd, -⟩ := decode_of_allowed hcmd hlen
    simp only [runFetch, hd]
    exact exec_nextOrStall h.stream fun n hi => absurd (slot_of_decode_runPkt hcmd (hi ▸ hd)) hhdr
  | own t => exact .inl ⟨t, rfl⟩
  | unselected hp hs => exact absurd hs (h.selected hp)

/-- On a stream that ends no step waits. -/
theorem LoadingFrom.step_next (h : LoadingFrom st s) (he : st.ended = true) : ∃ t, step s = .next t :=
  h.step_nextOrStall.resolve_right fun ⟨_, hne⟩ => by simp [he] at hne

/-- In LOAD_PIXEL the measure counts two steps a pixel left, and the stage of the pixel PIX. -/
theorem loadMeasure_pixel (hp : s.phase = .loadPixel) :
    loadMeasure s = 2 * (2 ^ 32 - s.pix.toNat) + pixelStage s := by rw [loadMeasure, hp]

/-- A pixel takes one step or two. -/
theorem pixelStage_bounds (s : State) : 1 ≤ pixelStage s ∧ pixelStage s ≤ 2 := by
  unfold pixelStage; split <;> decide

/-- A packet has a pixel at least (R109). -/
theorem runLength_ne_zero (n : BitVec 7) : runLength n ≠ 0 := fun h => by
  have hlen := runLength_toNat n
  simp [h] at hlen

/-- In LOAD_PIXEL the measure is at most what it is before pixel 0 with a packet header due. -/
theorem loadMeasure_pixel_le (hp : s.phase = .loadPixel) : loadMeasure s ≤ 2 * 2 ^ 32 + 2 := by
  have hstage := pixelStage_bounds s
  rw [loadMeasure_pixel hp]; omega

/-- A packet opened at a header makes the measure smaller: the pixel PIX has its iteration left (R172). -/
theorem loadMeasure_packet_lt (hp : s.phase = .loadPixel) (hrle : s.strategy.isRle = true) (hr : s.pkt.remain = 0)
    {q : BitVec 64} {enc : Bool} {len r : BitVec 8} {v : BitVec 32} (hne : r ≠ 0) :
    loadMeasure { s with inPos := q, pkt := ⟨enc, len, r, v⟩ } < loadMeasure s := by
  rw [loadMeasure_pixel hp, loadMeasure_pixel (by exact hp)]
  simp only [pixelStage, hrle, hr, hne, and_self, and_false, if_true, if_false]
  omega

/-- A pixel produced makes the measure smaller, whether or not the next one needs a packet header (R194). -/
theorem loadMeasure_pixel_lt (hp : s.phase = .loadPixel) (hi : s.pix.toNat < s.sizes.pixelCount.toNat)
    (hp' : t.phase = .loadPixel) (hpix : t.pix = s.pix + 1) : loadMeasure t < loadMeasure s := by
  have hnext : t.pix.toNat = s.pix.toNat + 1 := by bv_omega
  have hlt := s.sizes.pixelCount.isLt
  have hs := pixelStage_bounds s
  have ht := pixelStage_bounds t
  rw [loadMeasure_pixel hp, loadMeasure_pixel hp']
  omega

/-- A step inside a load ends it, or leaves it in progress with a smaller measure (R32, R202). -/
theorem StepCase.load_cases (hc : StepCase s t) (h : LoadingFrom st s) :
    (t.phase = .decoded ∨ t.phase = .closed) ∨ (LoadingFrom st t ∧ loadMeasure t < loadMeasure s) := by
  obtain ⟨hl, hst, hs⟩ := h
  cases hc with
  | idle hp | reset _ _ hp | answer _ _ _ hp | refused _ _ hp =>
    rw [Phase.takesCommands_of_loading hl] at hp; cases hp
  | openFails _ _ hp | opens _ _ _ hp | load _ _ hp => rw [hp] at hl; cases hl
  | short | cmapTooLarge | unsupported | runShort | lookupFails => exact .inl (.inr rfl)
  | finish => exact .inl (.inl rfl)
  | header _ _ hp | imageId _ hp | cmapDone hp =>
    exact .inr ⟨⟨rfl, hst, by simp⟩, by simp only [loadMeasure, hp]; omega⟩
  | cmapEntry _ _ hp hn hk =>
    have hnext := cmapEntryAt_add (pos := s.inPos) (h := s.hdr) (by omega)
    exact .inr ⟨⟨hl, hst, hs⟩, by simp only [loadMeasure, cmapWrite_phase, cmapWrite_hdr, hp, hnext]; omega⟩
  | select st' hp hne =>
    rcases selectStrategy_cases st' s with ⟨-, heq⟩ | heq <;> rw [heq]
    · refine .inr ⟨⟨rfl, hst, fun _ => hne⟩, (loadMeasure_pixel_le rfl).trans_lt ?_⟩
      simp only [loadMeasure, hp]; omega
    · exact .inl (.inr rfl)
  | rawPacket n _ hp hrle _ hr | runPacket n _ _ _ _ hp hrle _ _ hr =>
    exact .inr ⟨⟨hl, hst, hs⟩, loadMeasure_packet_lt hp hrle hr (runLength_ne_zero n)⟩
  | color u _ _ _ _ _ _ hp _ _ hi hu | lookup u _ _ _ _ _ hp _ hi hu =>
    obtain ⟨q, rfl⟩ := hu.eq_inPos
    exact .inr ⟨⟨hl, hst, hs⟩, loadMeasure_pixel_lt hp hi hp rfl⟩

/-- A load in progress has a step left. -/
theorem LoadingFrom.loadMeasure_pos (h : LoadingFrom st s) : 0 < loadMeasure s := by
  have hl := h.loading
  cases hp : s.phase with
  | loadPixel => have hstage := pixelStage_bounds s; rw [loadMeasure_pixel hp]; omega
  | loadHdr | loadId | loadCmap | loadDispatch => simp only [loadMeasure, hp]; omega
  | unopened | opened | decoded | closed => rw [hp] at hl; cases hl

/-- The measure of a load on a stream that ends bounds the steps to its end (R202). -/
theorem LoadingFrom.ends (h : LoadingFrom st s) (he : st.ended = true) :
    ∃ (k : Nat) (t : State), k ≤ loadMeasure s ∧ Host.Core.run Sys2Proof.core k s = .next t ∧
      (t.phase = .decoded ∨ t.phase = .closed) := by
  induction hm : loadMeasure s using Nat.strong_induction_on generalizing s with
  | _ m ih =>
    subst hm
    obtain ⟨u, hstep⟩ := h.step_next he
    have hone : Host.Core.run Sys2Proof.core 1 s = .next u := run_one hstep
    rcases (stepCase_of_step hstep).load_cases h with hend | ⟨hu, hlt⟩
    · exact ⟨1, u, h.loadMeasure_pos, hone, hend⟩
    · obtain ⟨k, t, hk, hrun, hend⟩ := ih _ hlt hu rfl
      exact ⟨1 + k, t, by omega, (run_add 1 k hone).trans hrun, hend⟩

end Sys2Proof.Machine

open Sys2Proof.Machine

/-- Settles O59, by induction on the measure of the load. -/
theorem everyLoadEnds : Obligations.EveryLoadEnds :=
  fun _ _ hl hst he hs => LoadingFrom.ends ⟨hl, hst, hs⟩ he

end

section
/-! The unpack engines (44_unpack_engines.md R210 to R225): the index UNPACK8 hands to the lookup, the pixels UNPACK24
and UNPACK32 write, and the buffers and their accessors in DECODED. -/

namespace Sys2Proof.Machine
variable {s : State}

/-- An indexed strategy's payload is one index byte (R37, R105). -/
theorem payload_of_isIndexed {st : Strategy} (h : st.isIndexed = true) : st.payload = some (.px8, 1) := by
  cases st
  case idxRaw8 | idxRle8 => rfl
  all_goals cases h

/-- UNPACK8 is CMAP_LOOKUP of its index (R155, R156, R210). -/
theorem exec_unpack8 (idx : Byte) (s : State) : exec (.unpack8 idx) s = exec (.cmapLookup idx) s := rfl

/-- The byte at IN_POS, where it is a pixel's index, is looked up with IN_POS after it (R155, R156, R210). -/
theorem step_literalIndex {st : Stream} (hp : s.phase = .loadPixel) (hs : s.strategy.isIndexed = true)
    (hi : s.pix.toNat < s.sizes.pixelCount.toNat)
    (hraw : s.strategy.isRle = true → s.pkt.remain ≠ 0 ∧ s.pkt.enc = false) (hst : s.stream = some st)
    (hl : s.inPos.toNat + 1 ≤ st.bytes.length) :
    step s = exec (.cmapLookup (st.bytes.getD s.inPos.toNat 0)) { s with inPos := s.inPos + 1 } := by
  have hread : nextRead s = some (.px8, 1) := nextRead_literal hp (payload_of_isIndexed hs) hi hraw
  have hdecode : decodeBytes .px8 ((st.bytes.drop s.inPos.toNat).take 1) =
      .ok (.unpack8 (st.bytes.getD s.inPos.toNat 0)) := by
    rw [take_drop_eq_map_getD hl]
    rfl
  exact (step_of_nextRead hread hst hl hdecode).trans (exec_unpack8 _ _)

/-- Inside a RUN packet the low byte of the latched payload is looked up, and IN_POS stays (R155, R175, R210). -/
theorem step_latchedIndex (hp : s.phase = .loadPixel) (hs : s.strategy.isIndexed = true)
    (hi : s.pix.toNat < s.sizes.pixelCount.toNat) (hrle : s.strategy.isRle = true) (hrem : s.pkt.remain ≠ 0)
    (henc : s.pkt.enc = true) : step s = exec (.cmapLookup (s.pkt.payload.extractLsb' 0 8)) s := by
  have hdecode : decode (plainWord .px8 (leBytes 1 s.pkt.payload)) =
      .ok (.unpack8 (s.pkt.payload.extractLsb' 0 8)) := by
    rw [leBytes_eq_map]
    rfl
  have hfetch := fetch_latched hp (payload_of_isIndexed hs) hi hrle hrem henc
  exact (step_unit hfetch hdecode).trans (exec_unpack8 _ s)

@[simp] theorem outBytes_length (sp : Space) (n : Nat) (s : State) : (outBytes sp n s).length = n := by
  simp [outBytes]

/-- The size registers of a run are the exact sizes of the header's image (R133). -/
theorem Inv.sizes_toNat (h : Inv s) :
    s.sizes.pixelCount.toNat = s.hdr.width.toNat * s.hdr.height.toNat ∧
      s.sizes.size8.toNat = s.hdr.width.toNat * s.hdr.height.toNat ∧
      s.sizes.size24.toNat = 3 * (s.hdr.width.toNat * s.hdr.height.toNat) ∧
      s.sizes.size32.toNat = 4 * (s.hdr.width.toNat * s.hdr.height.toNat) := by
  obtain ⟨h24, h32⟩ := sizesOf_toNat_eq_mul s.hdr
  have hn := sizesOf_pixelCount_toNat s.hdr
  rw [h.sizes]
  exact ⟨hn, hn, by rw [h24, hn, Nat.mul_comm], by rw [h32, hn, Nat.mul_comm]⟩

/-- In DECODED all the pixels of the header's image are produced (R194). -/
theorem Inv.pix_toNat_of_decoded (h : Inv s) (hp : s.phase = .decoded) :
    s.pix.toNat = s.hdr.width.toNat * s.hdr.height.toNat := by
  rw [h.done hp, h.sizes_toNat.1]

/-- In DECODED of a run the three pixel accessors answer as many bytes as the sizes say, READ_IDX none without
IDX_PRESENT, and change nothing (R223, R244, R247). -/
theorem Inv.readPixels (h : Inv s) (hp : s.phase = .decoded) :
    (∃ l, exec .cmdReadRgb24 s = .next (reply .ok (.bytes l) s) ∧ l.length = s.sizes.size24.toNat) ∧
      (∃ l, exec .cmdReadArgb32 s = .next (reply .ok (.bytes l) s) ∧ l.length = s.sizes.size32.toNat) ∧
      ∃ l, exec .cmdReadIdx s = .next (reply .ok (.bytes l) s) ∧
        l.length = if s.flags.idxPresent then s.sizes.size8.toNat else 0 := by
  have haccessor (d : Data) : accessor d s = reply .ok d s := accessor_decoded d s hp (h.valid.mpr hp)
  refine ⟨⟨_, congrArg _ (haccessor _), outBytes_length .rgb _ s⟩,
    ⟨_, congrArg _ (haccessor _), outBytes_length .argb _ s⟩, ⟨_, congrArg _ (haccessor _), ?_⟩⟩
  split
  · exact outBytes_length .idx _ s
  · rfl

end Sys2Proof.Machine

open Sys2Proof Sys2Proof.Machine

/-- Settles O19: UNPACK8 and CMAP_LOOKUP are one operation, on the index at IN_POS or on the latched one. -/
theorem unpack8HandsIndexToLookup : Obligations.Unpack8HandsIndexToLookup :=
  ⟨exec_unpack8, fun _ hp hs hi =>
    ⟨fun _ hraw hst hl => step_literalIndex hp hs hi hraw hst hl, step_latchedIndex hp hs hi⟩⟩

/-- Settles O20, by the bytes that `emitColor` writes, the alpha synthesized; the loop's tail leaves the buffers. -/
theorem unpack24EmitsPixel : Obligations.Unpack24EmitsPixel := fun b g r s =>
  ⟨completePixel (emitColor Config.synthAlpha r g b s), rfl, emitColor_read_rgb _ r g b s,
    emitColor_read_argb _ r g b s, emitColor_idx _ r g b s, rfl⟩

/-- Settles O21, by the bytes that `emitColor` writes, the alpha the payload's; the loop's tail leaves the buffers. -/
theorem unpack32EmitsPixel : Obligations.Unpack32EmitsPixel := fun b g r alpha s =>
  ⟨completePixel (emitColor alpha r g b s), rfl, emitColor_read_rgb alpha r g b s,
    emitColor_read_argb alpha r g b s, emitColor_idx alpha r g b s, rfl⟩

/-- Settles O56: the invariant lists the bytes of the pixels produced, in DECODED all, and the sizes are exact. -/
theorem decodedImageIsComplete : Obligations.DecodedImageIsComplete := by
  intro s h hp
  have hread := h.readPixels hp
  obtain ⟨-, h8, h24, h32⟩ := h.sizes_toNat
  rw [h8, h24, h32] at hread
  rw [← h.pix_toNat_of_decoded hp] at hread ⊢
  refine ⟨Memory.read_isSome_of_keys_range h.rgb, Memory.read_isSome_of_keys_range h.argb, fun a => ?idx, hread⟩
  case idx =>
    rw [Memory.read_isSome_of_keys_range h.idx]
    cases s.flags.idxPresent <;> simp

end

section
/-! The host command port (45_host_interface.md R239 to R249): when a command is taken, OPEN and LOAD, the five result
accessors and READ_STATUS. -/

namespace Sys2Proof.Machine
variable {s t : State}

/-- A phase in which commands are taken is not inside a load (R239). -/
theorem Phase.loading_of_takesCommands {p : Phase} (h : p.takesCommands = true) : p.loading = false :=
  Bool.eq_false_iff.mpr fun hl => Bool.false_ne_true ((Phase.takesCommands_of_loading hl).symm.trans h)

/-- A step inside a load leaves the command port and REFUSED; any other takes the first command waiting (R239). -/
theorem StepCase.port_cases (hc : StepCase s t) :
    (s.phase.loading = true ∧ t.cmds = s.cmds ∧ t.refused = s.refused) ∨
      (s.phase.loading = false ∧ t.cmds = s.cmds.tail) := by
  cases hc with
  | idle hp hc => exact .inr ⟨Phase.loading_of_takesCommands hp, by rw [hc]; rfl⟩
  | reset _ _ hp hc | answer _ _ _ hp hc | refused _ _ hp hc =>
    exact .inr ⟨Phase.loading_of_takesCommands hp, by rw [hc]; rfl⟩
  | openFails _ _ hp hc | opens _ _ _ hp hc | load _ _ hp hc => exact .inr ⟨by rw [hp]; rfl, by rw [hc]; rfl⟩
  | short n L hs =>
    obtain ⟨-, hp, -⟩ := hs
    exact .inl ⟨by rcases hp with hp | hp | hp | hp <;> rw [hp] <;> rfl, rfl, rfl⟩
  | select st hp =>
    rcases selectStrategy_cases st s with ⟨-, heq⟩ | heq <;> rw [heq] <;> exact .inl ⟨by rw [hp]; rfl, rfl, rfl⟩
  | color u _ _ _ _ _ _ hp _ _ _ hu | lookupFails u _ hp _ _ hu | lookup u _ _ _ _ _ hp _ _ hu =>
    obtain ⟨q, rfl⟩ := hu.eq_inPos
    exact .inl ⟨by rw [hp]; rfl, rfl, rfl⟩
  | header _ _ hp | imageId _ hp | cmapTooLarge hp | cmapEntry _ _ hp | cmapDone hp | unsupported hp
  | rawPacket _ _ hp | runPacket _ _ _ _ _ hp | runShort _ _ _ _ hp | finish hp =>
    exact .inl ⟨by rw [hp]; rfl, rfl, rfl⟩

/-- Where OPEN is accepted, a stream is attached at position 0 (R241). -/
theorem exec_cmdOpen_some (hp : s.phase = .unopened) (he : s.error.code = .none) (st : Stream) :
    exec (.cmdOpen (some st)) s =
      .next (reply .ok .none { s with stream := some st, inPos := 0, phase := .opened }) := if_pos ⟨hp, he⟩

/-- Where OPEN is accepted, no resource is an IOError in UNOPENED (R242). -/
theorem exec_cmdOpen_none (hp : s.phase = .unopened) (he : s.error.code = .none) :
    exec (.cmdOpen none) s =
      .next (reply (.fail .ioError) .none { s with error := ⟨.ioError, .unopened, s.error.pix⟩ }) := if_pos ⟨hp, he⟩

/-- Outside UNOPENED, and after a failed OPEN, OPEN is refused (R241). -/
theorem exec_cmdOpen_refused (h : s.phase ≠ .unopened ∨ s.error.code ≠ .none) (o : Option Stream) :
    exec (.cmdOpen o) s = .next (refuse s) := if_neg fun ⟨hp, he⟩ => h.elim (· hp) (· he)

/-- In UNOPENED of a run there is no result and no stream (R42, R241). -/
theorem Inv.unopened (h : Inv s) (hp : s.phase = .unopened) : s.flags.resultValid = false ∧ s.stream = none := by
  obtain ⟨-, -, -, hflags⟩ := h.early (by rw [hp]; rfl)
  have hattached : s.stream.isSome = false := h.attached.trans (by rw [hp]; rfl)
  exact ⟨by rw [hflags], by simpa using hattached⟩

/-- A result accessor returns data of the block alone, in no phase but DECODED, and leaves the block as it is (R244). -/
theorem exec_accessor {i : Instr}
    (hi : i ∈ [Instr.cmdReadHeader, .cmdReadCmap, .cmdReadIdx, .cmdReadRgb24, .cmdReadArgb32]) :
    ∃ data : State → Data, (∀ s, exec i s = .next (accessor (data s) s)) ∧
      ∀ o d s, data (reply o d s) = data s := by
  simp only [List.mem_cons, List.not_mem_nil, or_false] at hi
  rcases hi with rfl | rfl | rfl | rfl | rfl <;> exact ⟨_, fun _ => rfl, fun _ _ _ => rfl⟩

/-- Outside DECODED a result accessor is refused (R244). -/
theorem exec_accessor_refused {i : Instr}
    (hi : i ∈ [Instr.cmdReadHeader, .cmdReadCmap, .cmdReadIdx, .cmdReadRgb24, .cmdReadArgb32])
    (hp : s.phase ≠ .decoded) : exec i s = .next (refuse s) := by
  obtain ⟨data, hexec, -⟩ := exec_accessor hi
  rw [hexec, accessor_refused _ s hp]

/-- READ_CMAP's triple of a filled entry is its blue, green and red channels (R246). -/
theorem entryTriple_of_read {k : Nat} {e : BitVec 24} (he : Memory.read s.cmap k = some e) :
    entryTriple k s = (entryBlue e, entryGreen e, entryRed e) := by
  simp only [entryTriple, cmapRead, he, Option.getD_some]

/-- An accessor's byte at a written address is the byte written there (R50, R247). -/
theorem outBytes_getElem?_of_read {sp : Space} {n a : Nat} {v : Byte} (ha : a < n)
    (hv : Memory.read (s.out.get sp) a = some v) : (outBytes sp n s)[a]? = some v := by
  have hbyte : outByte sp a s = v := by rw [outByte, hv, Option.getD_some]
  simp [outBytes, ha, hbyte]

/-- The codes of the phases (R32). -/
theorem Phase.code_mem (p : Phase) :
    (p, p.code.toNat) ∈ [(Phase.unopened, 0), (.opened, 1), (.loadHdr, 2), (.loadId, 3), (.loadCmap, 4),
      (.loadDispatch, 5), (.loadPixel, 6), (.decoded, 7), (.closed, 8)] := by cases p <;> decide

/-- The codes of the strategies (R37). -/
theorem Strategy.code_mem (st : Strategy) :
    (st, st.code.toNat) ∈ [(Strategy.none, 0), (.idxRaw8, 1), (.tcRaw24, 2), (.tcRaw32, 3), (.idxRle8, 4),
      (.tcRle24, 5), (.tcRle32, 6)] := by cases st <;> decide

/-- The codes of the errors (R260). -/
theorem Err.code_mem (e : Err) :
    (e, e.code.toNat) ∈ [(Err.none, 0), (.ioError, 1), (.unsupportedFormat, 2), (.truncatedData, 3),
      (.indexOutOfRange, 4), (.cmapSize, 5), (.capacity, 6)] := by cases e <;> decide

end Sys2Proof.Machine

open Sys2Proof Sys2Proof.Machine

/-- Settles O48, by the cases of a step. -/
theorem commandsWaitForTheLoad : Obligations.CommandsWaitForTheLoad := by
  intro s t hstep
  rcases (stepCase_of_step hstep).port_cases with ⟨hload, hkept⟩ | ⟨hidle, htaken⟩
  · exact ⟨fun _ => hkept, fun hidle => absurd hload (by simp [hidle])⟩
  · exact ⟨fun hload => absurd hload (by simp [hidle]), fun _ => htaken⟩

/-- Settles O33: RESET does not look at the state but for what is not the block's. -/
theorem resetCommandResets : Obligations.ResetCommandResets := fun _ => rfl

/-- Settles O35, by the three outcomes of OPEN, and by the invariant. -/
theorem openAttachesStream : Obligations.OpenAttachesStream := fun _ =>
  ⟨fun hp he => ⟨exec_cmdOpen_some hp he, exec_cmdOpen_none hp he⟩, exec_cmdOpen_refused, Inv.unopened⟩

/-- Settles O36: the phase decides. -/
theorem loadBeginsInOpened : Obligations.LoadBeginsInOpened := fun _ => ⟨fun hp => if_pos hp, fun hp => if_neg hp⟩

/-- Settles O37: READ_HEADER is an accessor. -/
theorem readHeaderReturnsRegisters : Obligations.ReadHeaderReturnsRegisters := fun s =>
  ⟨fun hp hv => congrArg _ (accessor_decoded _ s hp hv), exec_accessor_refused (by simp)⟩

/-- Settles O38: READ_CMAP is an accessor, and its k-th triple is of entry k. -/
theorem readCmapReturnsTriples : Obligations.ReadCmapReturnsTriples := by
  refine fun s => ⟨fun hp hv => ⟨_, congrArg _ (accessor_decoded _ s hp hv), by simp, fun k e hk he => ?_⟩,
    exec_accessor_refused (by simp)⟩
  rw [List.getElem?_map, List.getElem?_range hk, Option.map_some, entryTriple_of_read he]
  rfl

/-- Settles O39: the three are accessors of `outBytes`, and READ_IDX asks IDX_PRESENT first. -/
theorem readPixelsReturnBuffers : Obligations.ReadPixelsReturnBuffers := by
  refine fun s => ⟨fun hp hv => ?_, fun hp i hi => exec_accessor_refused (.tail _ (.tail _ hi)) hp⟩
  have haccessor (d : Data) : accessor d s = reply .ok d s := accessor_decoded d s hp hv
  refine ⟨⟨_, congrArg _ (haccessor _), fun hx => ?absent, fun hx => ?present⟩,
    ⟨_, congrArg _ (haccessor _), outBytes_length .rgb _ s, fun _ _ => outBytes_getElem?_of_read (sp := .rgb)⟩,
    ⟨_, congrArg _ (haccessor _), outBytes_length .argb _ s, fun _ _ => outBytes_getElem?_of_read (sp := .argb)⟩⟩
  case absent => simp [hx]
  case present =>
    rw [hx, if_pos rfl]
    exact ⟨outBytes_length .idx _ s, fun _ _ => outBytes_getElem?_of_read (sp := .idx)⟩

/-- Settles O40: READ_STATUS answers `statusOf`, whose codes are the tables'. -/
theorem readStatusReturnsRegisters : Obligations.ReadStatusReturnsRegisters := fun s =>
  ⟨statusOf s, rfl, rfl, s.phase.code_mem, s.error.phase.code_mem, s.strategy.code_mem, s.error.code.code_mem⟩

/-- Settles O41: the data an accessor returns does not depend on the last response. -/
theorem accessorsAreReadOnly : Obligations.AccessorsAreReadOnly := by
  refine fun s i hi => ⟨exec_accessor_refused hi, fun hp hv => ?_, fun h => h.valid.mpr⟩
  obtain ⟨data, hexec, hdata⟩ := exec_accessor hi
  have hanswer (u : State) (hp : u.phase = .decoded) (hv : u.flags.resultValid = true) :
      exec i u = .next (reply .ok (data u) u) := by rw [hexec, accessor_decoded _ u hp hv]
  refine ⟨_, hanswer s hp hv, rfl, ?_⟩
  rw [hanswer (reply .ok (data s) s) hp hv, hdata]
  rfl

end

section
/-! The ways a load ends short and what holds afterwards (60_exceptions.md R262 to R279): the failure path of a short
read, the stalled stream, the terminal phases, and the bytes that a failed load has written. -/

namespace Sys2Proof.Machine
variable {s t : State}

/-- A short read is a TruncatedDataError in LOAD_PIXEL and an IOError in every other phase (R262). -/
theorem shortError_eq (p : Phase) : shortError p = if p = .loadPixel then .truncatedData else .ioError := by
  cases p <;> rfl

/-- A read past the bytes of a stream that does not end gets no answer (R77). -/
theorem streamRead_of_stalled {st : Stream} {n : Nat} (hst : s.stream = some st) (he : st.ended = false)
    (hl : st.bytes.length < s.inPos.toNat + n) : streamRead n s = .stop .streamStall := by
  simp [streamRead, hst, he, Nat.not_le.mpr hl]

/-- A unit past the bytes of a stream that does not end stops the step (R77, R305). -/
theorem step_of_stalled {sl : Slot} {n : Nat} {st : Stream} (hread : nextRead s = some (sl, n))
    (hst : s.stream = some st) (hl : st.bytes.length < s.inPos.toNat + n) (he : st.ended = false) :
    step s = .fault .streamStall := by
  refine step_stop ((fetch_of_nextRead hread).1.trans ?_)
  rw [fetchStream, streamRead_of_stalled hst he hl]

/-- Where a command is taken, the fetch is from the command port (R239). -/
theorem fetch_of_takesCommands (hp : s.phase.takesCommands = true) : fetch s = fetchCommand s := by
  cases h : s.phase <;> simp_all [fetch, Phase.takesCommands]

/-- Where a command is taken and none waits, the step leaves the state as it is (R279). -/
theorem step_idle (hp : s.phase.takesCommands = true) (hc : s.cmds = []) : step s = .next s :=
  step_seq (by rw [fetch_of_takesCommands hp, fetchCommand, hc])

/-- In a terminal phase a step is a RESET, or leaves all but the command port and REFUSED (R269, R270). -/
theorem StepCase.terminal_cases (hc : StepCase s t) (hterm : s.phase = .closed ∨ s.phase = .decoded) :
    resetPending s ∨ t = { s with cmds := t.cmds, refused := t.refused, resp := t.resp } := by
  cases hc with
  | reset c rest hp hc hcode => exact .inl ⟨hp, c, rest, hc, hcode⟩
  | idle | answer | refused => exact .inr rfl
  | short n L hs =>
    obtain ⟨-, hp, -⟩ := hs
    rcases hp with hp | hp | hp | hp <;> simp [hp] at hterm
  | openFails _ _ hp | opens _ _ _ hp | load _ _ hp | header _ _ hp | imageId _ hp | cmapTooLarge hp
  | cmapEntry _ _ hp | cmapDone hp | select _ hp | unsupported hp | rawPacket _ _ hp | runPacket _ _ _ _ _ hp
  | runShort _ _ _ _ hp | color _ _ _ _ _ _ _ hp | lookupFails _ _ hp | lookup _ _ _ _ _ _ hp | finish hp =>
    simp [hp] at hterm

/-- Exactly the bytes of the pixels before PIX are written, those of OUT_IDX only with IDX_PRESENT (R50, R81). -/
theorem Inv.written_iff (h : Inv s) :
    (∀ a, (Memory.read s.out.rgb a).isSome = true ↔ a < 3 * s.pix.toNat) ∧
      (∀ a, (Memory.read s.out.argb a).isSome = true ↔ a < 4 * s.pix.toNat) ∧
      ∀ a, (Memory.read s.out.idx a).isSome = true ↔ s.flags.idxPresent = true ∧ a < s.pix.toNat := by
  refine ⟨Memory.read_isSome_of_keys_range h.rgb, Memory.read_isSome_of_keys_range h.argb, fun a => ?_⟩
  rw [Memory.read_isSome_of_keys_range h.idx]
  cases s.flags.idxPresent <;> simp

end Sys2Proof.Machine

open Sys2Proof Sys2Proof.Machine

/-- Settles O12: the fetch of `nextRead` is short or stalled as the stream ends or not. -/
theorem shortReadRaisesByPhase : Obligations.ShortReadRaisesByPhase := by
  refine fun s sl n st hread hst hl => ⟨fun he => ?_, step_of_stalled hread hst hl⟩
  rw [step_of_short hread hst hl he, ← shortError_eq]
  rfl

/-- Settles O42, by the cases of a step. -/
theorem terminalPhasesHoldUntilReset : Obligations.TerminalPhasesHoldUntilReset :=
  fun _ _ hterm hstep => (stepCase_of_step hstep).terminal_cases hterm

/-- Settles O57: in CLOSED of a run ERR_PIX is PIX, before which exactly the pixels are written. -/
theorem failedLoadWroteEarlierPixels : Obligations.FailedLoadWroteEarlierPixels := by
  intro s h hp
  obtain ⟨hcode, hpix, -⟩ := h.closed hp
  have hvalid : s.flags.resultValid = false := Bool.eq_false_iff.mpr fun hv => by simp [h.valid.mp hv] at hp
  rw [hpix]
  exact ⟨hcode, hvalid, h.written_iff⟩

/-- Settles O10: without a command by `step_idle`, with one by `fetch_command`. -/
theorem idleUntilCommand : Obligations.IdleUntilCommand :=
  fun _ hp => ⟨step_idle hp, fun _ _ => fetch_command hp⟩

end
